-- ==== Sys2Proof/Word.lean ====
section
/-! DEFINITION. The word types of the TPDC and the ceiling division of R9. -/

namespace Sys2Proof

/-- A byte of memory or of a stream (R11). -/
abbrev Byte := BitVec 8

/-- A 32-bit register or command word (R17, R49). -/
abbrev Word := BitVec 32

/-- A 64-bit register pair `{X_HI, X_LO}` (R17). -/
abbrev DWord := BitVec 64

/-- `ceil_div(a, b) = floor((a + b - 1) / b)` for `b > 0` (R9). -/
def ceilDiv (a b : Nat) : Nat := (a + b - 1) / b

end Sys2Proof
end

