-- ==== Sys2Proof/Machine/Bytes.lean ====
section
/-! DEFINITION. Byte strings (R11): little-endian writing and reading, and slices. -/

namespace Sys2Proof

/-- `LE_n(v)`: the `n`-byte little-endian string of `v mod 2^(8n)` (R11). -/
def leBytes : Nat → Nat → List Byte
  | 0, _ => []
  | n + 1, v => BitVec.ofNat 8 v :: leBytes n (v / 256)

/-- `fromLE(s)`, the inverse of `LE_n` (R11). -/
def fromLE : List Byte → Nat
  | [] => 0
  | b :: bs => b.toNat + 256 * fromLE bs

/-- `s[a .. a+n)` (R11). -/
def slice (s : List Byte) (a n : Nat) : List Byte := (s.drop a).take n

end Sys2Proof
end

