-- ==== Sys2Proof/Syntax.lean ====
section
/-! DEFINITION. The commands of the TPDC: one constructor per row of the opcode table (R56), and the variant attributes
that the rows of one family differ in (R6). -/

namespace Sys2Proof

/-- The direction `DIR` of a variant (R6). -/
inductive Dir where
  /-- `UP`: increasing, `DIR = 0`. -/
  | up
  /-- `DN`: decreasing, `DIR = 1`. -/
  | dn
deriving DecidableEq, Repr

/-- A variant: a choice of the five attributes of R6. -/
structure Variant where
  /-- `V = 1`, the 256 variant. -/
  wide : Bool
  /-- `W = 64`. -/
  w64 : Bool
  /-- `S = 1`, signed. No computation depends on it (R66). -/
  signed : Bool
  /-- `DIR`. -/
  dir : Dir
  /-- `D1`, the minimum step 1. -/
  d1 : Bool
deriving DecidableEq, Repr

/-- The commands (R56). A `NOP` carries the number in its ignored bits 31:4 and a `BOUND` the number in its don't-care
bits 8:6 (R53), so that no bit of a word is dropped (log 14). -/
inductive Instr where
  /-- `NOP` (R104). -/
  | nop (ignored : Nat)
  /-- `ENC128.U32.UP.D0` (R105). -/
  | enc128U32UpD0
  /-- `ENC128.U32.UP.D1` (R105). -/
  | enc128U32UpD1
  /-- `ENC128.U32.DN.D0` (R105). -/
  | enc128U32DnD0
  /-- `ENC128.U32.DN.D1` (R105). -/
  | enc128U32DnD1
  /-- `ENC128.S32.UP.D0` (R105). -/
  | enc128S32UpD0
  /-- `ENC128.S32.UP.D1` (R105). -/
  | enc128S32UpD1
  /-- `ENC128.S32.DN.D0` (R105). -/
  | enc128S32DnD0
  /-- `ENC128.S32.DN.D1` (R105). -/
  | enc128S32DnD1
  /-- `ENC128.U64.UP.D0` (R105). -/
  | enc128U64UpD0
  /-- `ENC128.U64.UP.D1` (R105). -/
  | enc128U64UpD1
  /-- `ENC128.U64.DN.D0` (R105). -/
  | enc128U64DnD0
  /-- `ENC128.U64.DN.D1` (R105). -/
  | enc128U64DnD1
  /-- `ENC128.S64.UP.D0` (R105). -/
  | enc128S64UpD0
  /-- `ENC128.S64.UP.D1` (R105). -/
  | enc128S64UpD1
  /-- `ENC128.S64.DN.D0` (R105). -/
  | enc128S64DnD0
  /-- `ENC128.S64.DN.D1` (R105). -/
  | enc128S64DnD1
  /-- `ENC256.U32.UP.D0` (R105). -/
  | enc256U32UpD0
  /-- `ENC256.U32.UP.D1` (R105). -/
  | enc256U32UpD1
  /-- `ENC256.U32.DN.D0` (R105). -/
  | enc256U32DnD0
  /-- `ENC256.U32.DN.D1` (R105). -/
  | enc256U32DnD1
  /-- `ENC256.S32.UP.D0` (R105). -/
  | enc256S32UpD0
  /-- `ENC256.S32.UP.D1` (R105). -/
  | enc256S32UpD1
  /-- `ENC256.S32.DN.D0` (R105). -/
  | enc256S32DnD0
  /-- `ENC256.S32.DN.D1` (R105). -/
  | enc256S32DnD1
  /-- `ENC256.U64.UP.D0` (R105). -/
  | enc256U64UpD0
  /-- `ENC256.U64.UP.D1` (R105). -/
  | enc256U64UpD1
  /-- `ENC256.U64.DN.D0` (R105). -/
  | enc256U64DnD0
  /-- `ENC256.U64.DN.D1` (R105). -/
  | enc256U64DnD1
  /-- `ENC256.S64.UP.D0` (R105). -/
  | enc256S64UpD0
  /-- `ENC256.S64.UP.D1` (R105). -/
  | enc256S64UpD1
  /-- `ENC256.S64.DN.D0` (R105). -/
  | enc256S64DnD0
  /-- `ENC256.S64.DN.D1` (R105). -/
  | enc256S64DnD1
  /-- `DEC128.U32.UP.D0` (R106). -/
  | dec128U32UpD0
  /-- `DEC128.U32.UP.D1` (R106). -/
  | dec128U32UpD1
  /-- `DEC128.U32.DN.D0` (R106). -/
  | dec128U32DnD0
  /-- `DEC128.U32.DN.D1` (R106). -/
  | dec128U32DnD1
  /-- `DEC128.S32.UP.D0` (R106). -/
  | dec128S32UpD0
  /-- `DEC128.S32.UP.D1` (R106). -/
  | dec128S32UpD1
  /-- `DEC128.S32.DN.D0` (R106). -/
  | dec128S32DnD0
  /-- `DEC128.S32.DN.D1` (R106). -/
  | dec128S32DnD1
  /-- `DEC128.U64.UP.D0` (R106). -/
  | dec128U64UpD0
  /-- `DEC128.U64.UP.D1` (R106). -/
  | dec128U64UpD1
  /-- `DEC128.U64.DN.D0` (R106). -/
  | dec128U64DnD0
  /-- `DEC128.U64.DN.D1` (R106). -/
  | dec128U64DnD1
  /-- `DEC128.S64.UP.D0` (R106). -/
  | dec128S64UpD0
  /-- `DEC128.S64.UP.D1` (R106). -/
  | dec128S64UpD1
  /-- `DEC128.S64.DN.D0` (R106). -/
  | dec128S64DnD0
  /-- `DEC128.S64.DN.D1` (R106). -/
  | dec128S64DnD1
  /-- `DEC256.U32.UP.D0` (R106). -/
  | dec256U32UpD0
  /-- `DEC256.U32.UP.D1` (R106). -/
  | dec256U32UpD1
  /-- `DEC256.U32.DN.D0` (R106). -/
  | dec256U32DnD0
  /-- `DEC256.U32.DN.D1` (R106). -/
  | dec256U32DnD1
  /-- `DEC256.S32.UP.D0` (R106). -/
  | dec256S32UpD0
  /-- `DEC256.S32.UP.D1` (R106). -/
  | dec256S32UpD1
  /-- `DEC256.S32.DN.D0` (R106). -/
  | dec256S32DnD0
  /-- `DEC256.S32.DN.D1` (R106). -/
  | dec256S32DnD1
  /-- `DEC256.U64.UP.D0` (R106). -/
  | dec256U64UpD0
  /-- `DEC256.U64.UP.D1` (R106). -/
  | dec256U64UpD1
  /-- `DEC256.U64.DN.D0` (R106). -/
  | dec256U64DnD0
  /-- `DEC256.U64.DN.D1` (R106). -/
  | dec256U64DnD1
  /-- `DEC256.S64.UP.D0` (R106). -/
  | dec256S64UpD0
  /-- `DEC256.S64.UP.D1` (R106). -/
  | dec256S64UpD1
  /-- `DEC256.S64.DN.D0` (R106). -/
  | dec256S64DnD0
  /-- `DEC256.S64.DN.D1` (R106). -/
  | dec256S64DnD1
  /-- `BOUND128.W32` (R107). -/
  | bound128W32 (attrs : Nat)
  /-- `BOUND128.W64` (R107). -/
  | bound128W64 (attrs : Nat)
  /-- `BOUND256.W32` (R107). -/
  | bound256W32 (attrs : Nat)
  /-- `BOUND256.W64` (R107). -/
  | bound256W64 (attrs : Nat)
deriving DecidableEq, Repr

/-- What a command asks for: its family, its variant, and the bits its family ignores. -/
inductive Kind where
  /-- A word that is ignored entirely (R104). -/
  | nop (ignored : Nat)
  /-- Encode in a variant (R105). -/
  | enc (v : Variant)
  /-- Decode in a variant (R106). -/
  | dec (v : Variant)
  /-- The bound of a block width and an element width (R107). -/
  | bound (wide w64 : Bool) (attrs : Nat)
deriving DecidableEq, Repr

end Sys2Proof
end

