-- ==== Sys2Proof/WellFormed.lean ====
section
/-! DEFINITION. The checks a command must pass to have a word (R50, R53). -/

namespace Sys2Proof

/-- The number in a `NOP`'s ignored bits 31:4 fits 28 bits (R53). -/
def nopFits (ignored : Nat) : Bool := decide (ignored < 2 ^ 28)

/-- The number in a `BOUND`'s don't-care bits 8:6 fits 3 bits (R52). -/
def boundFits (attrs : Nat) : Bool := decide (attrs < 2 ^ 3)

/-- A command is well formed when the numbers it carries fit their fields. -/
def Instr.wf : Instr → Bool
  | .nop n => nopFits n
  | .bound128W32 a => boundFits a
  | .bound128W64 a => boundFits a
  | .bound256W32 a => boundFits a
  | .bound256W64 a => boundFits a
  | .enc128U32UpD0 => true
  | .enc128U32UpD1 => true
  | .enc128U32DnD0 => true
  | .enc128U32DnD1 => true
  | .enc128S32UpD0 => true
  | .enc128S32UpD1 => true
  | .enc128S32DnD0 => true
  | .enc128S32DnD1 => true
  | .enc128U64UpD0 => true
  | .enc128U64UpD1 => true
  | .enc128U64DnD0 => true
  | .enc128U64DnD1 => true
  | .enc128S64UpD0 => true
  | .enc128S64UpD1 => true
  | .enc128S64DnD0 => true
  | .enc128S64DnD1 => true
  | .enc256U32UpD0 => true
  | .enc256U32UpD1 => true
  | .enc256U32DnD0 => true
  | .enc256U32DnD1 => true
  | .enc256S32UpD0 => true
  | .enc256S32UpD1 => true
  | .enc256S32DnD0 => true
  | .enc256S32DnD1 => true
  | .enc256U64UpD0 => true
  | .enc256U64UpD1 => true
  | .enc256U64DnD0 => true
  | .enc256U64DnD1 => true
  | .enc256S64UpD0 => true
  | .enc256S64UpD1 => true
  | .enc256S64DnD0 => true
  | .enc256S64DnD1 => true
  | .dec128U32UpD0 => true
  | .dec128U32UpD1 => true
  | .dec128U32DnD0 => true
  | .dec128U32DnD1 => true
  | .dec128S32UpD0 => true
  | .dec128S32UpD1 => true
  | .dec128S32DnD0 => true
  | .dec128S32DnD1 => true
  | .dec128U64UpD0 => true
  | .dec128U64UpD1 => true
  | .dec128U64DnD0 => true
  | .dec128U64DnD1 => true
  | .dec128S64UpD0 => true
  | .dec128S64UpD1 => true
  | .dec128S64DnD0 => true
  | .dec128S64DnD1 => true
  | .dec256U32UpD0 => true
  | .dec256U32UpD1 => true
  | .dec256U32DnD0 => true
  | .dec256U32DnD1 => true
  | .dec256S32UpD0 => true
  | .dec256S32UpD1 => true
  | .dec256S32DnD0 => true
  | .dec256S32DnD1 => true
  | .dec256U64UpD0 => true
  | .dec256U64UpD1 => true
  | .dec256U64DnD0 => true
  | .dec256U64DnD1 => true
  | .dec256S64UpD0 => true
  | .dec256S64UpD1 => true
  | .dec256S64DnD0 => true
  | .dec256S64DnD1 => true

end Sys2Proof
end

