-- ==== Sys2Proof/Decode.lean ====
section
/-! DEFINITION. The command decoder (R49 to R53), total on every string of bytes and rejecting by name, and the
encoder (R56). -/

namespace Sys2Proof

/-- The family and the variant attributes that a mnemonic spells (R56). -/
def Instr.kind : Instr → Kind
  | .nop n => .nop n
  | .enc128U32UpD0 => .enc ⟨false, false, false, .up, false⟩
  | .enc128U32UpD1 => .enc ⟨false, false, false, .up, true⟩
  | .enc128U32DnD0 => .enc ⟨false, false, false, .dn, false⟩
  | .enc128U32DnD1 => .enc ⟨false, false, false, .dn, true⟩
  | .enc128S32UpD0 => .enc ⟨false, false, true, .up, false⟩
  | .enc128S32UpD1 => .enc ⟨false, false, true, .up, true⟩
  | .enc128S32DnD0 => .enc ⟨false, false, true, .dn, false⟩
  | .enc128S32DnD1 => .enc ⟨false, false, true, .dn, true⟩
  | .enc128U64UpD0 => .enc ⟨false, true, false, .up, false⟩
  | .enc128U64UpD1 => .enc ⟨false, true, false, .up, true⟩
  | .enc128U64DnD0 => .enc ⟨false, true, false, .dn, false⟩
  | .enc128U64DnD1 => .enc ⟨false, true, false, .dn, true⟩
  | .enc128S64UpD0 => .enc ⟨false, true, true, .up, false⟩
  | .enc128S64UpD1 => .enc ⟨false, true, true, .up, true⟩
  | .enc128S64DnD0 => .enc ⟨false, true, true, .dn, false⟩
  | .enc128S64DnD1 => .enc ⟨false, true, true, .dn, true⟩
  | .enc256U32UpD0 => .enc ⟨true, false, false, .up, false⟩
  | .enc256U32UpD1 => .enc ⟨true, false, false, .up, true⟩
  | .enc256U32DnD0 => .enc ⟨true, false, false, .dn, false⟩
  | .enc256U32DnD1 => .enc ⟨true, false, false, .dn, true⟩
  | .enc256S32UpD0 => .enc ⟨true, false, true, .up, false⟩
  | .enc256S32UpD1 => .enc ⟨true, false, true, .up, true⟩
  | .enc256S32DnD0 => .enc ⟨true, false, true, .dn, false⟩
  | .enc256S32DnD1 => .enc ⟨true, false, true, .dn, true⟩
  | .enc256U64UpD0 => .enc ⟨true, true, false, .up, false⟩
  | .enc256U64UpD1 => .enc ⟨true, true, false, .up, true⟩
  | .enc256U64DnD0 => .enc ⟨true, true, false, .dn, false⟩
  | .enc256U64DnD1 => .enc ⟨true, true, false, .dn, true⟩
  | .enc256S64UpD0 => .enc ⟨true, true, true, .up, false⟩
  | .enc256S64UpD1 => .enc ⟨true, true, true, .up, true⟩
  | .enc256S64DnD0 => .enc ⟨true, true, true, .dn, false⟩
  | .enc256S64DnD1 => .enc ⟨true, true, true, .dn, true⟩
  | .dec128U32UpD0 => .dec ⟨false, false, false, .up, false⟩
  | .dec128U32UpD1 => .dec ⟨false, false, false, .up, true⟩
  | .dec128U32DnD0 => .dec ⟨false, false, false, .dn, false⟩
  | .dec128U32DnD1 => .dec ⟨false, false, false, .dn, true⟩
  | .dec128S32UpD0 => .dec ⟨false, false, true, .up, false⟩
  | .dec128S32UpD1 => .dec ⟨false, false, true, .up, true⟩
  | .dec128S32DnD0 => .dec ⟨false, false, true, .dn, false⟩
  | .dec128S32DnD1 => .dec ⟨false, false, true, .dn, true⟩
  | .dec128U64UpD0 => .dec ⟨false, true, false, .up, false⟩
  | .dec128U64UpD1 => .dec ⟨false, true, false, .up, true⟩
  | .dec128U64DnD0 => .dec ⟨false, true, false, .dn, false⟩
  | .dec128U64DnD1 => .dec ⟨false, true, false, .dn, true⟩
  | .dec128S64UpD0 => .dec ⟨false, true, true, .up, false⟩
  | .dec128S64UpD1 => .dec ⟨false, true, true, .up, true⟩
  | .dec128S64DnD0 => .dec ⟨false, true, true, .dn, false⟩
  | .dec128S64DnD1 => .dec ⟨false, true, true, .dn, true⟩
  | .dec256U32UpD0 => .dec ⟨true, false, false, .up, false⟩
  | .dec256U32UpD1 => .dec ⟨true, false, false, .up, true⟩
  | .dec256U32DnD0 => .dec ⟨true, false, false, .dn, false⟩
  | .dec256U32DnD1 => .dec ⟨true, false, false, .dn, true⟩
  | .dec256S32UpD0 => .dec ⟨true, false, true, .up, false⟩
  | .dec256S32UpD1 => .dec ⟨true, false, true, .up, true⟩
  | .dec256S32DnD0 => .dec ⟨true, false, true, .dn, false⟩
  | .dec256S32DnD1 => .dec ⟨true, false, true, .dn, true⟩
  | .dec256U64UpD0 => .dec ⟨true, true, false, .up, false⟩
  | .dec256U64UpD1 => .dec ⟨true, true, false, .up, true⟩
  | .dec256U64DnD0 => .dec ⟨true, true, false, .dn, false⟩
  | .dec256U64DnD1 => .dec ⟨true, true, false, .dn, true⟩
  | .dec256S64UpD0 => .dec ⟨true, true, true, .up, false⟩
  | .dec256S64UpD1 => .dec ⟨true, true, true, .up, true⟩
  | .dec256S64DnD0 => .dec ⟨true, true, true, .dn, false⟩
  | .dec256S64DnD1 => .dec ⟨true, true, true, .dn, true⟩
  | .bound128W32 a => .bound false false a
  | .bound128W64 a => .bound false true a
  | .bound256W32 a => .bound true false a
  | .bound256W64 a => .bound true true a

/-- The encode command of a variant (R56). -/
def Instr.enc : Variant → Instr
  | ⟨false, false, false, .up, false⟩ => .enc128U32UpD0
  | ⟨false, false, false, .up, true⟩ => .enc128U32UpD1
  | ⟨false, false, false, .dn, false⟩ => .enc128U32DnD0
  | ⟨false, false, false, .dn, true⟩ => .enc128U32DnD1
  | ⟨false, false, true, .up, false⟩ => .enc128S32UpD0
  | ⟨false, false, true, .up, true⟩ => .enc128S32UpD1
  | ⟨false, false, true, .dn, false⟩ => .enc128S32DnD0
  | ⟨false, false, true, .dn, true⟩ => .enc128S32DnD1
  | ⟨false, true, false, .up, false⟩ => .enc128U64UpD0
  | ⟨false, true, false, .up, true⟩ => .enc128U64UpD1
  | ⟨false, true, false, .dn, false⟩ => .enc128U64DnD0
  | ⟨false, true, false, .dn, true⟩ => .enc128U64DnD1
  | ⟨false, true, true, .up, false⟩ => .enc128S64UpD0
  | ⟨false, true, true, .up, true⟩ => .enc128S64UpD1
  | ⟨false, true, true, .dn, false⟩ => .enc128S64DnD0
  | ⟨false, true, true, .dn, true⟩ => .enc128S64DnD1
  | ⟨true, false, false, .up, false⟩ => .enc256U32UpD0
  | ⟨true, false, false, .up, true⟩ => .enc256U32UpD1
  | ⟨true, false, false, .dn, false⟩ => .enc256U32DnD0
  | ⟨true, false, false, .dn, true⟩ => .enc256U32DnD1
  | ⟨true, false, true, .up, false⟩ => .enc256S32UpD0
  | ⟨true, false, true, .up, true⟩ => .enc256S32UpD1
  | ⟨true, false, true, .dn, false⟩ => .enc256S32DnD0
  | ⟨true, false, true, .dn, true⟩ => .enc256S32DnD1
  | ⟨true, true, false, .up, false⟩ => .enc256U64UpD0
  | ⟨true, true, false, .up, true⟩ => .enc256U64UpD1
  | ⟨true, true, false, .dn, false⟩ => .enc256U64DnD0
  | ⟨true, true, false, .dn, true⟩ => .enc256U64DnD1
  | ⟨true, true, true, .up, false⟩ => .enc256S64UpD0
  | ⟨true, true, true, .up, true⟩ => .enc256S64UpD1
  | ⟨true, true, true, .dn, false⟩ => .enc256S64DnD0
  | ⟨true, true, true, .dn, true⟩ => .enc256S64DnD1

/-- The decode command of a variant (R56). -/
def Instr.dec : Variant → Instr
  | ⟨false, false, false, .up, false⟩ => .dec128U32UpD0
  | ⟨false, false, false, .up, true⟩ => .dec128U32UpD1
  | ⟨false, false, false, .dn, false⟩ => .dec128U32DnD0
  | ⟨false, false, false, .dn, true⟩ => .dec128U32DnD1
  | ⟨false, false, true, .up, false⟩ => .dec128S32UpD0
  | ⟨false, false, true, .up, true⟩ => .dec128S32UpD1
  | ⟨false, false, true, .dn, false⟩ => .dec128S32DnD0
  | ⟨false, false, true, .dn, true⟩ => .dec128S32DnD1
  | ⟨false, true, false, .up, false⟩ => .dec128U64UpD0
  | ⟨false, true, false, .up, true⟩ => .dec128U64UpD1
  | ⟨false, true, false, .dn, false⟩ => .dec128U64DnD0
  | ⟨false, true, false, .dn, true⟩ => .dec128U64DnD1
  | ⟨false, true, true, .up, false⟩ => .dec128S64UpD0
  | ⟨false, true, true, .up, true⟩ => .dec128S64UpD1
  | ⟨false, true, true, .dn, false⟩ => .dec128S64DnD0
  | ⟨false, true, true, .dn, true⟩ => .dec128S64DnD1
  | ⟨true, false, false, .up, false⟩ => .dec256U32UpD0
  | ⟨true, false, false, .up, true⟩ => .dec256U32UpD1
  | ⟨true, false, false, .dn, false⟩ => .dec256U32DnD0
  | ⟨true, false, false, .dn, true⟩ => .dec256U32DnD1
  | ⟨true, false, true, .up, false⟩ => .dec256S32UpD0
  | ⟨true, false, true, .up, true⟩ => .dec256S32UpD1
  | ⟨true, false, true, .dn, false⟩ => .dec256S32DnD0
  | ⟨true, false, true, .dn, true⟩ => .dec256S32DnD1
  | ⟨true, true, false, .up, false⟩ => .dec256U64UpD0
  | ⟨true, true, false, .up, true⟩ => .dec256U64UpD1
  | ⟨true, true, false, .dn, false⟩ => .dec256U64DnD0
  | ⟨true, true, false, .dn, true⟩ => .dec256U64DnD1
  | ⟨true, true, true, .up, false⟩ => .dec256S64UpD0
  | ⟨true, true, true, .up, true⟩ => .dec256S64UpD1
  | ⟨true, true, true, .dn, false⟩ => .dec256S64DnD0
  | ⟨true, true, true, .dn, true⟩ => .dec256S64DnD1

/-- The bound command of a block width and an element width (R56). -/
def Instr.bound : Bool → Bool → Nat → Instr
  | false, false, a => .bound128W32 a
  | false, true, a => .bound128W64 a
  | true, false, a => .bound256W32 a
  | true, true, a => .bound256W64 a

/-- Why a word is no command. -/
inductive DecodeError where
  /-- `OP` is 4 to 15: illegal (R52 step 1). -/
  | reservedOp
  /-- `OP` is 1 to 3 and a bit of 31:9 is set: illegal (R52 step 2). -/
  | reservedBits
  /-- Fewer than the 4 bytes of a command word (R49). -/
  | truncated
deriving DecidableEq, Repr

/-- What decoding answers. -/
inductive Decoded where
  /-- The word spells a command. -/
  | ok (i : Instr)
  /-- The word spells none. -/
  | rejected (why : DecodeError)
deriving DecidableEq, Repr

/-- The field `OP`, bits 3:0 (R50). -/
def opField (w : Word) : BitVec 4 := w.extractLsb' 0 4

/-- The reserved field, bits 31:9 (R50). -/
def reservedField (w : Word) : BitVec 23 := w.extractLsb' 9 23

/-- The variant attributes: bits 4 to 8 (R50). -/
def variantField (w : Word) : Variant :=
  { wide := w.getLsbD 4, w64 := w.getLsbD 5, signed := w.getLsbD 6,
    dir := if w.getLsbD 7 then .dn else .up, d1 := w.getLsbD 8 }

/-- Decoding of a command word (R52, R53). -/
def decodeCmd (w : Word) : Decoded :=
  if opField w = 0 then .ok (.nop (w.extractLsb' 4 28).toNat)
  else if 4 ≤ (opField w).toNat then .rejected .reservedOp
  else if reservedField w ≠ 0 then .rejected .reservedBits
  else if opField w = 1 then .ok (.enc (variantField w))
  else if opField w = 2 then .ok (.dec (variantField w))
  else .ok (.bound (w.getLsbD 4) (w.getLsbD 5) (w.extractLsb' 6 3).toNat)

/-- The word that four bytes in little-endian order make (R18, R36). -/
def wordOfBytes (bs : List Byte) : Word := BitVec.ofNat 32 (fromLE bs)

/-- Decoding of the bytes of a register write to `CMD`: a command is one 32-bit word (R49). -/
def decodeBytes (bs : List Byte) : Decoded :=
  if bs.length < 4 then .rejected .truncated else decodeCmd (wordOfBytes (bs.take 4))

/-- The bit `DIR` of a direction (R50). -/
def dirBit : Dir → Nat
  | .up => 0
  | .dn => 1

/-- `OP | V<<4 | W64<<5 | S<<6 | DIR<<7 | D1<<8` (R56). -/
def variantWord (op : Nat) (v : Variant) : Word :=
  BitVec.ofNat 32 (op + 16 * v.wide.toNat + 32 * v.w64.toNat + 64 * v.signed.toNat
    + 128 * dirBit v.dir + 256 * v.d1.toNat)

/-- The word of a kind of command: the fields of R50 put in their places. -/
def encodeKind : Kind → Word
  | .nop n => BitVec.ofNat 32 (16 * n)
  | .enc v => variantWord 1 v
  | .dec v => variantWord 2 v
  | .bound wide w64 attrs => BitVec.ofNat 32 (3 + 16 * wide.toNat + 32 * w64.toNat + 64 * attrs)

/-- The word of a command (R56). -/
def encode (i : Instr) : Word := encodeKind i.kind

/-- The four bytes of a command word as a register write carries them (R18). -/
def encodeBytes (i : Instr) : List Byte := leBytes 4 (encode i).toNat

/-- The command that the decoder reads from the table's numbering of an instruction's bits: one 32-bit word, so the bits
are the word's own; every bit above `nbits` is 0. -/
def decodeTableWord (nbits w : Nat) : Option Instr :=
  match decodeBytes (leBytes 4 (w % 2 ^ nbits)) with
  | .ok i => some i
  | .rejected _ => none

end Sys2Proof
end

