-- ==== Sys2Proof/Config.lean ====
section
/-! DEFINITION. What the TPDC is built with (R8), its constants (R7, R8, R17, R19), and the free values:
constants with no body, of which nothing can be proved. -/

namespace Sys2Proof

/-- The build parameters of R8 other than `XR`. They are part of the state, so that every claim about all states holds
for all parameters (log 1). -/
structure Params where
  /-- `HAS_WIDE`: the 256 variant is present; read as `CAP.WIDE` (R20). -/
  hasWide : Bool
  /-- `NCH`, the number of channels. -/
  nch : Nat
  /-- `ADDR_WIDTH`, the width of the memory port's byte address. -/
  addrWidth : Nat
  /-- `REG_BASE`, the bus address of register offset 0. -/
  regBase : Nat
deriving DecidableEq, Repr

/-- The legal values of R8. -/
abbrev Params.Legal (p : Params) : Prop :=
  1 ≤ p.nch ∧ p.nch ≤ 15 ∧ 32 ≤ p.addrWidth ∧ p.addrWidth ≤ 64 ∧ p.regBase % 4096 = 0

/-- `XR`, the exception ratio divisor: 32 is the only value of this revision (R8). -/
def Config.XR : Nat := 32

/-- The constant `ID` (R19). -/
def Config.idValue : Word := 0x54504431

/-- The size of the register window in bytes (R17, R33). -/
def Config.windowSize : Nat := 4096

/-- The reference configuration of R8. DESIGN CHOICE (log 1): the spec leaves `HAS_WIDE` and `REG_BASE` open; here the
wide datapath is present and the window stands at bus address 0. -/
def Config.reference : Params := { hasWide := true, nch := 1, addrWidth := 64, regBase := 0 }

/-- FREE VALUE (R114, R44, R125; log 6): byte `i` of the draw numbered `k`. -/
opaque Config.freeByte (k i : Nat) : Byte

/-- FREE VALUE (R114, R44; log 6): the value of `RESULT` in the draw numbered `k`. -/
opaque Config.freeResult (k : Nat) : DWord

/-- FREE VALUE (R113; log 7): whether the draw numbered `k` reports `ERR_MEM` where `ERR_MALFORMED` could arise too. -/
opaque Config.freeChoice (k : Nat) : Bool

/-- FREE VALUE (R44; log 8): the error code, 0 to 7, of a raced command in the draw numbered `k`. -/
opaque Config.freeErr (k : Nat) : BitVec 3

end Sys2Proof
end

