-- ==== Sys2Proof/Machine/State.lean ====
section
/-! DEFINITION. The state of the TPDC (10_state.md), its faults and refusals, and the state after reset (R124). -/

namespace Sys2Proof.Machine

/-- The memory space (R33): the bytes that differ from `blankByte`, addresses strictly rising. -/
abbrev Memory := List Host.Cell

/-- What an address that is not listed reads as. DESIGN CHOICE (log 2): the spec leaves the contents before the first
command to the platform (R126, I7). -/
def blankByte : Byte := 0

/-- The canonical form: addresses strictly rising, and no entry that an unlisted address would read as. -/
def Memory.wf : Memory → Bool
  | [] => true
  | [(_, b)] => decide (b ≠ blankByte)
  | (a, b) :: (c, d) :: rest => decide (b ≠ blankByte) && decide (a < c) && Memory.wf ((c, d) :: rest)

/-- A range of bus addresses `[base, base + size)` (R34). -/
structure Range where
  base : Nat
  size : Nat
deriving DecidableEq, Repr

/-- A range of memory addresses that the platform answers other than as ordinary memory (R38, R48, R111; log 10). -/
structure Region where
  /-- The addresses. -/
  range : Range
  /-- An engine's read gets an error response (R111). -/
  readErr : Bool
  /-- An engine's write gets an error response (R111). -/
  writeErr : Bool
  /-- The addresses have access side effects (R38). -/
  device : Bool
deriving DecidableEq, Repr

/-- The engine state `eng(ch)`, which `STATUS.BUSY` shows (R29). -/
inductive Engine where
  | idle
  | busy
deriving DecidableEq, Repr

/-- The hidden latches of R30. -/
structure Latch where
  cmd : Word
  len : Word
  src : DWord
  dst : DWord
  srcCap : DWord
  dstCap : DWord
deriving DecidableEq, Repr

/-- The hidden progress, lane scratch and running baseline of R31. -/
structure Progress where
  /-- The block index. -/
  block : Nat
  /-- The stream offset. -/
  offset : Nat
  /-- The element index. -/
  elem : Nat
  /-- The running baseline: `x[start_k - 1]` while block `k` is processed (R62). -/
  base : Nat
  /-- The lane scratch of the unpacker, padding slots included (R81, R82). -/
  scratch : List Nat
deriving DecidableEq, Repr

/-- The state of one channel: its registers (R17), its engine state (R29) and its hidden state (R30, R31). -/
structure Chan where
  /-- `CMD`, the last accepted command word (R22). -/
  cmd : Word
  /-- `eng(ch)`, shown as `STATUS.BUSY` (R29). -/
  eng : Engine
  /-- `STATUS.DONE` (R23). -/
  done : Bool
  /-- `STATUS.ERR` (R23). -/
  err : BitVec 4
  /-- `STATUS.DROPPED` (R23). -/
  dropped : Bool
  /-- `LEN` (R24). -/
  len : Word
  /-- `SRC_LO` (R25). -/
  srcLo : Word
  /-- `SRC_HI` (R25). -/
  srcHi : Word
  /-- `DST_LO` (R25). -/
  dstLo : Word
  /-- `DST_HI` (R25). -/
  dstHi : Word
  /-- `SRC_CAP_LO` (R26). -/
  srcCapLo : Word
  /-- `SRC_CAP_HI` (R26). -/
  srcCapHi : Word
  /-- `DST_CAP_LO` (R26). -/
  dstCapLo : Word
  /-- `DST_CAP_HI` (R26). -/
  dstCapHi : Word
  /-- `RESULT_LO` (R27). -/
  resultLo : Word
  /-- `RESULT_HI` (R27). -/
  resultHi : Word
  /-- The latched operands (R30). -/
  latch : Latch
  /-- The hidden progress (R31). -/
  prog : Progress
  /-- The model's own: a byte of this busy command's ranges was written by another agent (R44, log 8). -/
  raced : Bool
deriving DecidableEq, Repr

/-- What happens next outside a command's own run: host actions (R3, R57), engine steps (R29) and reset (R124). The
agenda is the model's own way to hold an arbitrary schedule (log 4). -/
inductive Input where
  /-- A register write at a bus address; the data bytes in little-endian order (R18). -/
  | regWrite (addr : Nat) (data : List Byte)
  /-- A register read of `size` bytes at a bus address (R18). -/
  | regRead (addr size : Nat)
  /-- A host write to memory by its own path (R33). -/
  | memWrite (addr : Nat) (data : List Byte)
  /-- A host read of `size` bytes of memory (R33, R44). -/
  | memRead (addr size : Nat)
  /-- The engine of a channel runs what is left of its command and completes it (R29). -/
  | engine (ch : Nat)
  /-- The engine of a channel takes one inner step, a block, without completing (R29 step 2, R31). -/
  | tick (ch : Nat)
  /-- `WAIT CH<n>` (R57). -/
  | wait (ch : Nat)
  /-- `RUN CH<n>, <word>` (R57), with nothing between the acceptance and the completion. -/
  | run (ch : Nat) (w : Word)
  /-- The platform resets the TPDC (R124, R125). -/
  | reset
deriving DecidableEq, Repr

/-- The state of the machine. -/
structure State where
  /-- The build parameters (R8). No step changes them. -/
  params : Params
  /-- The channels, `NCH` of them (R121). -/
  chans : List Chan
  /-- The memory space (R33). -/
  mem : Memory
  /-- The platform's answers at the memory port (R38, R111; log 10). -/
  port : List Region
  /-- The agenda (log 4). -/
  inputs : List Input
  /-- The model's own: the channel whose command `exec` runs (log 4). -/
  cur : Nat
  /-- The bytes that the last host read returned (log 15). -/
  busData : List Byte
  /-- The model's own: how many free values have been drawn (log 6). -/
  draws : Nat
deriving DecidableEq, Repr

/-- Why the machine stops. -/
inductive Fault where
  /-- Raised by a host access to memory outside the `2^ADDR_WIDTH` bytes that exist (R33). Safe: no command raises it. -/
  | noSuchAddress (addr : Nat)
deriving DecidableEq, Repr

/-- Why the model declines a step. -/
inductive Refusal where
  /-- Raised by an arm of `exec` for a command that has no meaning yet. Safe. No arm raises it now. -/
  | notModelled (mnemonic : String)
  /-- Raised by an ENC or DEC whose buffers cover an address with access side effects: "a model refuses such a command"
  (R38, I14). Safe. -/
  | deviceBuffer
  /-- Raised by a host access to memory that covers such an address: the device is the platform's, and the spec says
  nothing of it (R38). Safe. -/
  | deviceAccess
  /-- Raised by a host register access at a bus address outside the window (R33): it is no access to the TPDC. Safe. -/
  | outsideWindow
deriving DecidableEq, Repr

/-- No progress: the hidden state at acceptance and after reset (R30, R31, R124; log 3). -/
def Progress.start : Progress := { block := 0, offset := 0, elem := 0, base := 0, scratch := [] }

/-- The latches after reset: discarded, so no value is observable (R124; log 3). -/
def Latch.blank : Latch := { cmd := 0, len := 0, src := 0, dst := 0, srcCap := 0, dstCap := 0 }

/-- A channel after reset (R17, R124). -/
def Chan.blank : Chan :=
  { cmd := 0, eng := .idle, done := false, err := 0, dropped := false, len := 0,
    srcLo := 0, srcHi := 0, dstLo := 0, dstHi := 0, srcCapLo := 0, srcCapHi := 0, dstCapLo := 0, dstCapHi := 0,
    resultLo := 0, resultHi := 0, latch := .blank, prog := .start, raced := false }

/-- The machine right after reset, for any build parameters (R124): nothing listed in memory, nothing on the agenda. -/
def State.resetWith (p : Params) : State :=
  { params := p, chans := List.replicate p.nch .blank, mem := [], port := [], inputs := [], cur := 0, busData := [],
    draws := 0 }

/-- The machine right after reset in the reference configuration (R8, R124; log 1). -/
def State.reset : State := .resetWith Config.reference

end Sys2Proof.Machine
end

