-- ==== Sys2Proof/Machine/Flags.lean ====
section
/-! DEFINITION. The flags of the TPDC, all in `STATUS` (R23, R32): the error codes (R110), the word a read gives, and
what acceptance, completion, a dropped command and a host write do to them. -/

namespace Sys2Proof.Machine

/-- The errors of R110. -/
inductive ErrCode where
  /-- A reserved `OP`, or a reserved bit set: pre-check 1. -/
  | illegal
  /-- `V = 1` while `CAP.WIDE = 0`: pre-check 2. -/
  | cap
  /-- A buffer range passes `2^ADDR_WIDTH`: pre-check 3. -/
  | range
  /-- The output capacity is too small: pre-check 4. -/
  | dstCap
  /-- The ranges intersect: pre-check 5. -/
  | overlap
  /-- The memory port returned a bus error. -/
  | mem
  /-- A condition of R99 on a decoded stream. -/
  | malformed
deriving DecidableEq, Repr

/-- The code that `STATUS.ERR` holds (R110). -/
def ErrCode.code : ErrCode → BitVec 4
  | .illegal => 1
  | .cap => 2
  | .range => 3
  | .dstCap => 4
  | .overlap => 5
  | .mem => 6
  | .malformed => 7

/-- `STATUS.BUSY` shows the engine state (R29). -/
def Chan.busy (c : Chan) : Bool := decide (c.eng = .busy)

/-- The word a read of `STATUS` gives: `BUSY` in bit 0, `DONE` in bit 1, `ERR` in bits 7:4, `DROPPED` in bit 8, every
other bit 0 (R23). -/
def statusWord (c : Chan) : Word :=
  BitVec.ofNat 32 (c.busy.toNat + 2 * c.done.toNat + 16 * c.err.toNat + 256 * c.dropped.toNat)

/-- A host write of `v` to `STATUS` clears `DONE` if `v[1] = 1` and `DROPPED` if `v[8] = 1`; nothing else (R23). -/
def writeStatus (c : Chan) (v : Word) : Chan :=
  { c with done := c.done && !v.getLsbD 1, dropped := c.dropped && !v.getLsbD 8 }

/-- Acceptance: `BUSY <- 1`, `DONE <- 0`, `ERR <- 0` (R29 step 1). -/
def flagsAtAccept (c : Chan) : Chan := { c with eng := .busy, done := false, err := 0 }

/-- Completion with an error code, 0 for none: `ERR` gets it, `DONE <- 1`, `BUSY <- 0` (R29 step 3). -/
def flagsAtComplete (c : Chan) (err : BitVec 4) : Chan := { c with eng := .idle, done := true, err := err }

/-- A dropped command write sets `DROPPED` (R22, R23). -/
def flagsAtDrop (c : Chan) : Chan := { c with dropped := true }

end Sys2Proof.Machine
end

