-- ==== Sys2Proof/Machine/Operands.lean ====
section
/-! DEFINITION. The operands of a command: the constants of its variant (R7), the operand registers and latches (R24 to
R26, R30, R51), the worst-case bound (R95), the ranges of R103, and the pre-checks. -/

namespace Sys2Proof

/-- The block size `BS` (R7). -/
def blockSize (wide : Bool) : Nat := if wide then 256 else 128

/-- The lane count `L` (R7). -/
def laneCount (wide : Bool) : Nat := if wide then 8 else 4

/-- The element width `W` in bits (R6). -/
def elemWidth (w64 : Bool) : Nat := if w64 then 64 else 32

/-- The element size `E = W/8` in bytes (R7). -/
def elemSize (w64 : Bool) : Nat := elemWidth w64 / 8

/-- The block size of a variant. -/
def Variant.bs (v : Variant) : Nat := blockSize v.wide

/-- The lane count of a variant. -/
def Variant.lanes (v : Variant) : Nat := laneCount v.wide

/-- The element width of a variant. -/
def Variant.width (v : Variant) : Nat := elemWidth v.w64

/-- The element size of a variant. -/
def Variant.size (v : Variant) : Nat := elemSize v.w64

/-- The minimum step `D1` of a variant, 0 or 1 (R6). -/
def Variant.step (v : Variant) : Nat := v.d1.toNat

/-- The worst-case stream size `WCB(N)` (R95). -/
def wcb (wide w64 : Bool) (n : Nat) : Nat :=
  if n = 0 then 0
  else (n + laneCount wide) * elemSize w64 + 3 * ceilDiv n (blockSize wide) + 4 * laneCount wide

/-- The worst-case stream size of a variant. -/
def Variant.wcb (v : Variant) (n : Nat) : Nat := Sys2Proof.wcb v.wide v.w64 n

end Sys2Proof

namespace Sys2Proof.Machine

/-- The 64-bit value `{X_HI, X_LO}` of a register pair (R17). -/
def pairVal (hi lo : Word) : DWord := hi ++ lo

/-- The latches that acceptance of a command word fills from the operand registers (R30). -/
def latchOf (c : Chan) (w : Word) : Latch :=
  { cmd := w, len := c.len, src := pairVal c.srcHi c.srcLo, dst := pairVal c.dstHi c.dstLo,
    srcCap := pairVal c.srcCapHi c.srcCapLo, dstCap := pairVal c.dstCapHi c.dstCapLo }

/-- `N`, the latched `LEN` (R51). -/
def Latch.count (l : Latch) : Nat := l.len.toNat

/-- A range is valid when it is empty or ends at or below `2^ADDR_WIDTH`, computed without wrap (R34). -/
def Range.valid (r : Range) (addrWidth : Nat) : Bool := decide (r.size = 0 ∨ r.base + r.size ≤ 2 ^ addrWidth)

/-- Two ranges intersect; empty ranges intersect nothing (R103 check 5). -/
def Range.meets (r q : Range) : Bool :=
  decide (r.size ≠ 0 ∧ q.size ≠ 0 ∧ r.base < q.base + q.size ∧ q.base < r.base + r.size)

/-- An address lies in a range. -/
def Range.has (r : Range) (a : Nat) : Bool := decide (r.base ≤ a ∧ a < r.base + r.size)

/-- The part of a range that exists: the bytes below `2^ADDR_WIDTH` (R33). -/
def Range.within (r : Range) (addrWidth : Nat) : Range :=
  { base := r.base, size := min r.size (2 ^ addrWidth - r.base) }

/-- The empty range. -/
def Range.none : Range := { base := 0, size := 0 }

/-- `[SRC, SRC + N*E)`, the input of an encode (R103). -/
def encIn (v : Variant) (l : Latch) : Range := { base := l.src.toNat, size := l.count * v.size }

/-- `[DST, DST + DST_CAP)`, the output of an encode (R103). -/
def encOut (l : Latch) : Range := { base := l.dst.toNat, size := l.dstCap.toNat }

/-- `[SRC, SRC + SRC_CAP)`, the input of a decode (R103). -/
def decIn (l : Latch) : Range := { base := l.src.toNat, size := l.srcCap.toNat }

/-- `[DST, DST + N*E)`, the output of a decode (R103). -/
def decOut (v : Variant) (l : Latch) : Range := { base := l.dst.toNat, size := l.count * v.size }

/-- The first of the checks 2 to 5 of R103 that fails, given the command's ranges and the output capacity it needs. -/
def precheck (p : Params) (wide : Bool) (rin rout : Range) (need cap : Nat) : Option ErrCode :=
  if wide && !p.hasWide then some .cap
  else if !(rin.valid p.addrWidth && rout.valid p.addrWidth) then some .range
  else if cap < need then some .dstCap
  else if rin.meets rout then some .overlap
  else none

/-- The pre-checks of an encode (R103): the output needs `WCB(N)` bytes. -/
def precheckEnc (p : Params) (v : Variant) (l : Latch) : Option ErrCode :=
  precheck p v.wide (encIn v l) (encOut l) (v.wcb l.count) l.dstCap.toNat

/-- The pre-checks of a decode (R103): the output needs `N*E` bytes. -/
def precheckDec (p : Params) (v : Variant) (l : Latch) : Option ErrCode :=
  precheck p v.wide (decIn l) (decOut v l) (l.count * v.size) l.dstCap.toNat

/-- The bytes that an encode may leave with any value when it does not succeed: `[DST, DST + WCB(N))` (R114, R125). -/
def encDirty (v : Variant) (l : Latch) : Range := { base := l.dst.toNat, size := v.wcb l.count }

end Sys2Proof.Machine
end

