-- ==== Sys2Proof/Machine/BitPack.lean ====
section
/-! DEFINITION. Functional unit (3): the dense bit packer and unpacker with the lane-aligned layout (R75 to R85). -/

namespace Sys2Proof.Machine

/-- The values per lane, `m = ceil_div(c, L)` (R75). -/
def laneLen (c lanes : Nat) : Nat := ceilDiv c lanes

/-- The lane words per lane, `P = ceil_div(m*b, 32)` (R76). -/
def laneWords (c lanes b : Nat) : Nat := ceilDiv (laneLen c lanes * b) 32

/-- The payload size in bytes, `4*L*P` (R78). -/
def payloadSize (c lanes b : Nat) : Nat := 4 * lanes * laneWords c lanes b

/-- The bit string `Z` that `m` values of `b` bits make, the first in the lowest bits (R76, R80). -/
def laneBits (b : Nat) (val : Nat → Nat) (m : Nat) : Nat :=
  ((List.range m).map (fun t => val t * 2 ^ (t * b))).sum

/-- `pack(lo, b, L)` (R80): word `q*L + k` is lane word `q` of lane `k`; slots past the values are 0. -/
def pack (lo : List Nat) (b lanes : Nat) : List Byte :=
  (List.range (laneWords lo.length lanes b)).flatMap fun q =>
    (List.range lanes).flatMap fun k =>
      leBytes 4 (laneBits b (fun t => lo.getD (t * lanes + k) 0) (laneLen lo.length lanes) / 2 ^ (32 * q) % 2 ^ 32)

/-- The bit string of lane `k` read back from a payload (R81). -/
def unpackLane (payload : List Byte) (lanes words k : Nat) : Nat :=
  ((List.range words).map (fun q => fromLE (slice payload (4 * (q * lanes + k)) 4) * 2 ^ (32 * q))).sum

/-- The lane scratch: `L*m` values, padding slots included (R81, R82). -/
def unpackScratch (payload : List Byte) (b lanes c : Nat) : List Nat :=
  (List.range (lanes * laneLen c lanes)).map fun j =>
    unpackLane payload lanes (laneWords c lanes b) (j % lanes) / 2 ^ (j / lanes * b) % 2 ^ b

/-- `unpack(payload, b, L, c)` (R81): slots `c` and above of the scratch are discarded. -/
def unpack (payload : List Byte) (b lanes c : Nat) : List Nat := (unpackScratch payload b lanes c).take c

end Sys2Proof.Machine
end

