-- ==== Sys2Proof/Machine/Delta.lean ====
section
/-! DEFINITION. Functional unit (1): the partitioner (R58) and the delta encoder and decoder (R59 to R67). -/

namespace Sys2Proof.Machine

/-- The number of blocks, `ceil_div(N, BS)` (R58). -/
def blockCount (n bs : Nat) : Nat := ceilDiv n bs

/-- The element count `c_k` of block `k` (R58). -/
def blockLen (n bs k : Nat) : Nat := min bs (n - k * bs)

/-- A list cut into `k` pieces of `bs` elements, the last possibly shorter (R58). -/
def cut (bs : Nat) : Nat → List Nat → List (List Nat)
  | 0, _ => []
  | k + 1, xs => xs.take bs :: cut bs k (xs.drop bs)

/-- `a mod 2^W`, the non-negative residue (R9). -/
def residue (w : Nat) (a : Int) : Nat := (a % (2 ^ w : Int)).toNat

/-- The slot value of `x[g] = cur` after `x[g-1] = prev` (R59): the directed difference less the minimum step. -/
def deltaOf (v : Variant) (prev cur : Nat) : Nat :=
  match v.dir with
  | .up => residue v.width ((cur : Int) - prev - v.step)
  | .dn => residue v.width ((prev : Int) - cur - v.step)

/-- The slot values of elements that follow `prev` (R59, R60). -/
def deltasFrom (v : Variant) : Nat → List Nat → List Nat
  | _, [] => []
  | prev, x :: xs => deltaOf v prev x :: deltasFrom v x xs

/-- The slot values of a whole sequence: the placeholder 0 for the baseline, then the deltas (R59). -/
def deltas (v : Variant) : List Nat → List Nat
  | [] => []
  | x :: xs => 0 :: deltasFrom v x xs

/-- The element that slot value `d` gives after `x[g-1] = prev` (R63). -/
def undeltaOf (v : Variant) (prev d : Nat) : Nat :=
  match v.dir with
  | .up => residue v.width ((prev : Int) + d + v.step)
  | .dn => residue v.width ((prev : Int) - d - v.step)

/-- The elements that slot values give after `prev` (R63). -/
def undeltasFrom (v : Variant) : Nat → List Nat → List Nat
  | _, [] => []
  | prev, d :: ds => undeltaOf v prev d :: undeltasFrom v (undeltaOf v prev d) ds

/-- The elements of block `k`: in block 0 slot 0 is read and discarded and the baseline stands in its place (R63). -/
def undeltaBlock (v : Variant) (k base : Nat) (vals : List Nat) : List Nat :=
  if k = 0 then
    match vals with
    | [] => []
    | _ :: ds => base :: undeltasFrom v base ds
  else undeltasFrom v base vals

/-- The slot values of block `k`, given the running baseline (R60, R61). -/
def deltaBlock (v : Variant) (k base : Nat) (xs : List Nat) : List Nat :=
  if k = 0 then deltas v xs else deltasFrom v base xs

end Sys2Proof.Machine
end

