-- ==== Sys2Proof/Machine/Ops.lean ====
section
/-! DEFINITION. The named operations over memory, the memory port and the channels; the draws of free values; and the
completion of a command, normal or with an error (R29, R114), which is the TPDC's taking of an exception. -/

namespace Sys2Proof.Machine

/-- The byte at an address of memory. -/
def Memory.get : Memory → Nat → Byte
  | [], _ => blankByte
  | (x, y) :: rest, a => if x = a then y else Memory.get rest a

/-- Memory with one byte written, in canonical form. -/
def Memory.set : Memory → Nat → Byte → Memory
  | [], a, b => if b = blankByte then [] else [(a, b)]
  | (x, y) :: rest, a, b =>
    if a < x then (if b = blankByte then (x, y) :: rest else (a, b) :: (x, y) :: rest)
    else if a = x then (if b = blankByte then rest else (a, b) :: rest)
    else (x, y) :: Memory.set rest a b

/-- `MemRead(addr, n)`: the bytes at `addr .. addr+n-1`, in order (R12). -/
def Memory.read (m : Memory) : Nat → Nat → List Byte
  | _, 0 => []
  | a, n + 1 => m.get a :: Memory.read m (a + 1) n

/-- `MemWrite(addr, s)`: the bytes of `s` at `addr .. addr+|s|-1` (R12). -/
def Memory.write : Memory → Nat → List Byte → Memory
  | m, _, [] => m
  | m, a, b :: bs => Memory.write (m.set a b) (a + 1) bs

/-- Element `i` of an array of `E`-byte elements at address `A` (R13). -/
def elemAt (m : Memory) (a size i : Nat) : Nat := fromLE (m.read (a + i * size) size)

/-- The `n` elements of an array from index `i` on (R13). -/
def elemsAt (m : Memory) (a size i n : Nat) : List Nat := (List.range n).map fun g => elemAt m a size (i + g)

/-- The bytes of an element array: `LE_E` of each element, in order (R13). -/
def elemBytes (size : Nat) (xs : List Nat) : List Byte := xs.flatMap (leBytes size)

/-- Every engine read in a range succeeds (R111). -/
def portReads (port : List Region) (r : Range) : Bool := port.all fun g => !(g.readErr && g.range.meets r)

/-- Every engine write in a range succeeds (R111). -/
def portWrites (port : List Region) (r : Range) : Bool := port.all fun g => !(g.writeErr && g.range.meets r)

/-- A range covers an address with access side effects (R38). -/
def onDevice (port : List Region) (r : Range) : Bool := port.any fun g => g.device && g.range.meets r

/-- Channel `ch`; a channel that does not exist reads as reset, which is all zeros (R28). -/
def State.chan (s : State) (ch : Nat) : Chan := s.chans.getD ch .blank

/-- The state with channel `ch` replaced; without effect where there is no such channel (R28). -/
def State.setChan (s : State) (ch : Nat) (c : Chan) : State := { s with chans := s.chans.set ch c }

/-- The state with channel `ch` as the one whose command runs. -/
def State.select (s : State) (ch : Nat) : State := { s with cur := ch }

/-- The channel whose command runs. -/
def State.curChan (s : State) : Chan := s.chan s.cur

/-- Completion of the running command (R29 step 3): `RESULT` and `ERR` get their final values, `DONE <- 1`,
`BUSY <- 0`, and the engine is idle with no progress. -/
def State.complete (s : State) (result : DWord) (err : BitVec 4) : State :=
  s.setChan s.cur
    { flagsAtComplete s.curChan err with
      resultLo := result.extractLsb' 0 32, resultHi := result.extractLsb' 32 32, prog := .start, raced := false }

/-- Error completion before any memory access (codes 1 to 5): `RESULT = 0`, memory as it was (R114). -/
def State.failClean (s : State) (e : ErrCode) : State := s.complete 0 e.code

/-- The bytes of the next draw (R114, R44, R125): a free value each. -/
def State.freeBytes (s : State) (n : Nat) : List Byte := (List.range n).map (Config.freeByte s.draws)

/-- Every byte of a range gets a free value. -/
def State.scramble (s : State) (r : Range) : State :=
  { s with mem := s.mem.write r.base (s.freeBytes r.size), draws := s.draws + 1 }

/-- Completion with an error code during execution: every byte of the write range and `RESULT` are free values (R114,
R44). -/
def State.failDirty (s : State) (err : BitVec 4) (r : Range) : State :=
  (s.scramble r).complete (Config.freeResult s.draws) err

/-- The code of a DEC for which a bus error and a malformation could both arise: either one (R113). -/
def State.eitherCode (s : State) : BitVec 4 :=
  if Config.freeChoice s.draws then ErrCode.mem.code else ErrCode.malformed.code

/-- The code of a command whose ranges met another agent's write: any code of R110 (R44). -/
def State.anyCode (s : State) : BitVec 4 := (Config.freeErr s.draws).setWidth 4

end Sys2Proof.Machine
end

