-- ==== Sys2Proof/Machine/BitWidth.lean ====
section
/-! DEFINITION. Functional unit (2): the bit-width selector (R68 to R74). -/

namespace Sys2Proof.Machine

/-- The exception budget `B(c) = floor(c / XR)` (R68). -/
def budget (c : Nat) : Nat := c / Config.XR

/-- How many values do not fit in `b` bits (R69). -/
def countOver (vals : List Nat) (b : Nat) : Nat := vals.countP (fun x => decide (2 ^ b ≤ x))

/-- The search of R69 from width `b`, with `fuel` widths left to try: smallest first. -/
def selectFrom (vals : List Nat) : (fuel b : Nat) → Nat
  | 0, b => b
  | fuel + 1, b => if countOver vals b ≤ budget vals.length then b else selectFrom vals fuel (b + 1)

/-- `select_b(v, W)` (R69). At `b = W` the budget is always kept (R71). -/
def selectB (vals : List Nat) (w : Nat) : Nat := selectFrom vals w 0

/-- The exception set `X` of a block, as pairs of a slot and its high part, in increasing order of the slot (R73). -/
def exceptionsFrom (b : Nat) : Nat → List Nat → List (Nat × Nat)
  | _, [] => []
  | j, x :: xs =>
    if 2 ^ b ≤ x then (j, x / 2 ^ b) :: exceptionsFrom b (j + 1) xs else exceptionsFrom b (j + 1) xs

/-- The exception set of a block's values (R73). -/
def exceptions (vals : List Nat) (b : Nat) : List (Nat × Nat) := exceptionsFrom b 0 vals

/-- The low parts of a block's values (R73). -/
def lowParts (vals : List Nat) (b : Nat) : List Nat := vals.map (· % 2 ^ b)

end Sys2Proof.Machine
end

