-- ==== Sys2Proof/Machine/Patch.lean ====
section
/-! DEFINITION. Functional unit (4): the exception list (R86, R87) and the patch of one entry (R88). -/

namespace Sys2Proof.Machine

/-- The bytes of a high part, `HB = ceil_div(W - b, 8)` (R86). -/
def highBytes (w b : Nat) : Nat := ceilDiv (w - b) 8

/-- One entry of an exception list: the slot, then the high part (R86). -/
def patchEntry (w b : Nat) (e : Nat × Nat) : List Byte := leBytes 1 e.1 ++ leBytes (highBytes w b) e.2

/-- `patch_encode(v, b, W)` (R87): empty when no value is an exception. -/
def patchEncode (vals : List Nat) (b w : Nat) : List Byte :=
  if (exceptions vals b).isEmpty then []
  else leBytes 1 (exceptions vals b).length ++ (exceptions vals b).flatMap (patchEntry w b)

/-- `v[p] <- (v[p] OR (h * 2^b)) mod 2^W` (R88). -/
def patchValue (w b old h : Nat) : Nat := (old ||| h * 2 ^ b) % 2 ^ w

/-- The patch of slot `p` (R88). -/
def patchAt (w b : Nat) (vals : List Nat) (p h : Nat) : List Nat := vals.set p (patchValue w b (vals.getD p 0) h)

end Sys2Proof.Machine
end

