-- ==== Sys2Proof/Machine/Framing.lean ====
section
/-! DEFINITION. Functional unit (5): the block framer and header codec (R91 to R94) and the stream reader (R97 to
R101). -/

namespace Sys2Proof.Machine

/-- `encode_block(v, W, L)` (R93): a 3-byte header (R92), the payload, the exception list. -/
def encodeBlock (v : Variant) (vals : List Nat) : List Byte :=
  let b := selectB vals v.width
  let exc := patchEncode vals b v.width
  leBytes 1 (b + 128 * (if exc.isEmpty then 0 else 1)) ++ leBytes 2 vals.length
    ++ pack (lowParts vals b) b v.lanes ++ exc

/-- The stream of a sequence (R91): the baseline, then the blocks in order. -/
def stream (v : Variant) : List Nat → List Byte
  | [] => []
  | x :: xs =>
    leBytes v.size x
      ++ (cut v.bs (blockCount (x :: xs).length v.bs) (deltas v (x :: xs))).flatMap (encodeBlock v)

/-- The input buffer of a decode: memory, the platform's answers, `SRC`, and the limit `SRC_CAP` (R97). -/
structure InBuf where
  mem : Memory
  port : List Region
  base : Nat
  lim : Nat
deriving DecidableEq, Repr

/-- The reader's cursor (R97), and whether a byte that decides nothing else has met a bus error (R113). -/
structure Cursor where
  pos : Nat
  memErr : Bool
deriving DecidableEq, Repr

/-- What reading a part of the stream answers. -/
inductive Parsed (α : Type) where
  /-- The part, and the cursor after it. -/
  | ok (a : α) (c : Cursor)
  /-- A condition of R99. -/
  | malformed (c : Cursor)
  /-- A bus error on bytes without which nothing after them can be read (R111). -/
  | busError (c : Cursor)
deriving DecidableEq, Repr

/-- The cursor where a field would pass the limit (R97). The read set of such a decode reaches to `SRC + SRC_CAP` (R39), so a
bus error on the bytes left there is noted (log 7). -/
def Cursor.truncated (buf : InBuf) (c : Cursor) : Cursor :=
  { pos := buf.lim,
    memErr := c.memErr || !portReads buf.port { base := buf.base + c.pos, size := buf.lim - c.pos } }

/-- A field of `n` bytes at the cursor, and whether the memory port answered it; malformed where it would pass the limit
(R97). -/
def readField (buf : InBuf) (n : Nat) (c : Cursor) : Parsed (List Byte × Bool) :=
  if buf.lim < c.pos + n then .malformed (c.truncated buf)
  else .ok (buf.mem.read (buf.base + c.pos) n, portReads buf.port { base := buf.base + c.pos, size := n })
    { c with pos := c.pos + n }

/-- A field that decides where the next ones stand (an exception count). -/
def readControl (buf : InBuf) (n : Nat) (c : Cursor) : Parsed (List Byte) :=
  match readField buf n c with
  | .ok (bs, true) c' => .ok bs c'
  | .ok (_, false) c' => .busError c'
  | .malformed c' => .malformed c'
  | .busError c' => .busError c'

/-- A field that decides only values (the baseline, a payload, a high part): a bus error is noted, and what follows can
still be read, since the order of the engine's accesses is open (R113). -/
def readData (buf : InBuf) (n : Nat) (c : Cursor) : Parsed (List Byte) :=
  match readField buf n c with
  | .ok (bs, ok) c' => .ok bs { c' with memErr := c'.memErr || !ok }
  | .malformed c' => .malformed c'
  | .busError c' => .busError c'

/-- The three fields of a block header: `b`, `EXC` and `cnt` (R92, R98). -/
structure Header where
  b : Nat
  exc : Bool
  cnt : Nat
deriving DecidableEq, Repr

/-- The header that three bytes hold (R98). -/
def headerOf (h : List Byte) : Header :=
  { b := (h.getD 0 0).toNat % 128, exc := decide ((h.getD 0 0).toNat / 128 = 1),
    cnt := (h.getD 1 0).toNat + 256 * (h.getD 2 0).toNat }

/-- Byte `i` of a field at the cursor is answered by the memory port. -/
def answered (buf : InBuf) (c : Cursor) (i : Nat) : Bool :=
  portReads buf.port { base := buf.base + c.pos + i, size := 1 }

/-- The bytes of a header that the port answers show a malformation: `b > W` in byte 0, or a byte of the count that is not
that of `c` in byte 1 or 2 (R99). The width and the order of the engine's accesses are open (R39), so each byte shows it
for itself (R113; log 7). -/
def headerRefuted (buf : InBuf) (w c : Nat) (h : Header) (cur : Cursor) : Bool :=
  (answered buf cur 0 && decide (w < h.b))
    || (answered buf cur 1 && decide (h.cnt % 256 ≠ c % 256))
    || (answered buf cur 2 && decide (h.cnt / 256 ≠ c / 256))

/-- `decode_header()` and its checks (R98, R99). Byte 0 alone decides where the next fields stand (R55), so only a bus error
on it stops the reading; one on the count is noted, and what follows can still be read (R113; log 7). -/
def readHeader (buf : InBuf) (w c : Nat) (cur : Cursor) : Parsed Header :=
  match readData buf 3 cur with
  | .malformed cur' => .malformed cur'
  | .busError cur' => .busError cur'
  | .ok h cur' =>
    if headerRefuted buf w c (headerOf h) cur then .malformed cur'
    else if answered buf cur 0 then .ok (headerOf h) cur'
    else .busError cur'

/-- The entries of an exception list, in list order, applied to the values of a block of `c` (R88). The check `p >= c`
needs the position byte: where the port did not answer it, the entry is left out and the bus error noted (R113). -/
def patchApply (buf : InBuf) (w b c : Nat) : Nat → List Nat → Cursor → Parsed (List Nat)
  | 0, vals, cur => .ok vals cur
  | n + 1, vals, cur =>
    match readField buf 1 cur with
    | .malformed cur => .malformed cur
    | .busError cur => .busError cur
    | .ok (pb, answered) cur =>
      match readData buf (highBytes w b) { cur with memErr := cur.memErr || !answered } with
      | .malformed cur => .malformed cur
      | .busError cur => .busError cur
      | .ok hb cur =>
        if !answered then patchApply buf w b c n vals cur
        else if c ≤ fromLE pb then .malformed cur
        else patchApply buf w b c n (patchAt w b vals (fromLE pb) (fromLE hb)) cur

/-- The exception list of a block: its count byte, then its entries (R88). -/
def decodeExceptions (buf : InBuf) (w b c : Nat) (vals : List Nat) (cur : Cursor) : Parsed (List Nat) :=
  match readControl buf 1 cur with
  | .malformed cur => .malformed cur
  | .busError cur => .busError cur
  | .ok nx cur => patchApply buf w b c (fromLE nx) vals cur

/-- `decode_block(k, c_k)` (R100): the patched values, and the lane scratch as the unpacker left it. -/
def decodeBlock (v : Variant) (buf : InBuf) (c : Nat) (cur : Cursor) : Parsed (List Nat × List Nat) :=
  match readHeader buf v.width c cur with
  | .malformed cur => .malformed cur
  | .busError cur => .busError cur
  | .ok h cur =>
    match readData buf (payloadSize c v.lanes h.b) cur with
    | .malformed cur => .malformed cur
    | .busError cur => .busError cur
    | .ok payload cur =>
      let scratch := unpackScratch payload h.b v.lanes c
      if h.exc then
        match decodeExceptions buf v.width h.b c (scratch.take c) cur with
        | .malformed cur => .malformed cur
        | .busError cur => .busError cur
        | .ok vals cur => .ok (vals, scratch) cur
      else .ok (scratch.take c, scratch) cur

/-- What decoding a stream, or one block of it, answers: how far the engine came in each case. -/
inductive StreamOut where
  /-- The elements, the progress after them, and whether a bus error was met. -/
  | done (xs : List Nat) (p : Progress) (memErr : Bool)
  /-- A condition of R99, after so much progress. -/
  | malformed (p : Progress) (memErr : Bool)
  /-- A bus error that stops the reading. -/
  | busError (p : Progress)
deriving DecidableEq, Repr

/-- One block of `decode_stream` (R101): decode it, then undo the deltas from the running baseline (R63, R89). -/
def decodeStep (v : Variant) (buf : InBuf) (n : Nat) (p : Progress) (memErr : Bool) : StreamOut :=
  match decodeBlock v buf (blockLen n v.bs p.block) { pos := p.offset, memErr := memErr } with
  | .malformed c => .malformed { p with offset := c.pos } c.memErr
  | .busError c => .busError { p with offset := c.pos }
  | .ok (vals, scratch) c =>
    let xs := undeltaBlock v p.block p.base vals
    .done xs
      { block := p.block + 1, offset := c.pos, elem := p.elem + xs.length, base := xs.getLastD p.base,
        scratch := scratch }
      c.memErr

/-- The blocks of `decode_stream` from the progress reached, `k` of them left (R101). -/
def decodeBlocks (v : Variant) (buf : InBuf) (n : Nat) : Nat → Progress → Bool → StreamOut
  | 0, p, me => .done [] p me
  | k + 1, p, me =>
    match decodeStep v buf n p me with
    | .malformed q e => .malformed q e
    | .busError q => .busError q
    | .done xs q e =>
      match decodeBlocks v buf n k q e with
      | .done ys r f => .done (xs ++ ys) r f
      | .malformed r f => .malformed r f
      | .busError r => .busError r

/-- The progress once the baseline is read (R101, R62). -/
def Progress.afterBase (offset base : Nat) : Progress :=
  { block := 0, offset := offset, elem := 0, base := base, scratch := [] }

/-- `decode_stream(N)` (R101). -/
def decodeStream (v : Variant) (buf : InBuf) (n : Nat) : StreamOut :=
  if n = 0 then .done [] .start false
  else
    match readData buf v.size { pos := 0, memErr := false } with
    | .malformed c => .malformed { Progress.start with offset := c.pos } c.memErr
    | .busError c => .busError { Progress.start with offset := c.pos }
    | .ok bs c => decodeBlocks v buf n (blockCount n v.bs) (.afterBase c.pos (fromLE bs)) c.memErr

/-- How many elements an engine may have written before a malformation at a progress: those of the blocks before it, and
`x[0]` once the `E` bytes of the baseline are read, since each element may be written as soon as it is reconstructed (R106),
and one of the malformed block is not before all its patches are applied (R89; log 7). A truncated baseline leaves the offset
at `SRC_CAP`, below `E`, and no element known. -/
def Progress.known (v : Variant) (p : Progress) : Nat := if p.offset < v.size then 0 else max p.elem 1

/-- The progress where a decode ends, however it ends. -/
def StreamOut.prog : StreamOut → Progress
  | .done _ p _ => p
  | .malformed p _ => p
  | .busError p => p

end Sys2Proof.Machine
end

