-- ==== Sys2Proof/Machine/Races.lean ====
section
/-! DEFINITION. The bytes that a busy command touches, and what another agent's access to them does (R44, R45, R121). -/

namespace Sys2Proof.Machine

/-- The input buffer of a latched decode. -/
def State.inBuf (s : State) (l : Latch) : InBuf :=
  { mem := s.mem, port := s.port, base := l.src.toNat, lim := l.srcCap.toNat }

/-- The family and variant of a latched command; none for an illegal word. -/
def latchKind (l : Latch) : Option Kind :=
  match decodeCmd l.cmd with
  | .ok i => some i.kind
  | .rejected _ => none

/-- The bytes that an abandoned command may leave with any value, as R125 lists them: `[DST, DST + WCB(N))` for ENC,
`[DST, DST + N*E)` for DEC. -/
def abandonedRange (l : Latch) : Range :=
  match latchKind l with
  | some (.enc v) => encDirty v l
  | some (.dec v) => decOut v l
  | _ => .none

/-- The range that a command may write while it runs: `[DST, DST + WCB(N))` for ENC, `[DST, DST + N*E)` for DEC (R114). A
command that a pre-check ends touches no memory (R103), so it has none (log 9). -/
def writeRange (p : Params) (l : Latch) : Range :=
  match latchKind l with
  | some (.enc v) => if precheckEnc p v l = none then encDirty v l else .none
  | some (.dec v) => if precheckDec p v l = none then decOut v l else .none
  | _ => .none

/-- The range that a command reads: `[SRC, SRC + N*E)` for ENC, `[SRC, SRC + min(C, SRC_CAP))` for DEC, where `C` is how
far the decode gets (R39). -/
def readRange (s : State) (l : Latch) : Range :=
  match latchKind l with
  | some (.enc v) => if precheckEnc s.params v l = none then encIn v l else .none
  | some (.dec v) =>
    if precheckDec s.params v l = none then
      { base := l.src.toNat, size := min (decodeStream v (s.inBuf l) l.count).prog.offset l.srcCap.toNat }
    else .none
  | _ => .none

/-- A write to range `r` meets what a command reads or writes (R44). -/
def hits (s : State) (r : Range) (l : Latch) : Bool := r.meets (readRange s l) || r.meets (writeRange s.params l)

/-- One of two commands writes what the other reads or writes (R121). -/
def conflict (s : State) (l k : Latch) : Bool := hits s (writeRange s.params l) k || hits s (writeRange s.params k) l

/-- A channel whose busy command meets a condition is marked as raced (R44). -/
def Chan.raceIf (c : Chan) (cond : Latch → Bool) : Chan :=
  if c.busy && cond c.latch then { c with raced := true } else c

/-- A write by another agent to range `r`: every busy command that reads or writes there is raced (R44). -/
def State.raceWrite (s : State) (r : Range) : State :=
  { s with chans := s.chans.map (·.raceIf (hits s r)) }

/-- Acceptance of a command with latches `l`: the busy commands that conflict with it are raced (R121). -/
def State.raceAccept (s : State) (l : Latch) : State :=
  { s with chans := s.chans.map (·.raceIf (conflict s l)) }

/-- A busy command conflicts with latches `l` (R121). -/
def State.contested (s : State) (l : Latch) : Bool := s.chans.any fun c => c.busy && conflict s l c.latch

/-- Address `a` is in the write range of a busy command: what a host reads there is unspecified (R44). -/
def State.unsettled (s : State) (a : Nat) : Bool :=
  s.chans.any fun c => c.busy && (writeRange s.params c.latch).has a

end Sys2Proof.Machine
end

