-- ==== Sys2Proof/Machine/Registers.lean ====
section
/-! DEFINITION. The register window (R17 to R28): the map, reads, writes, and the acceptance of a command (R22, R29,
R30). -/

namespace Sys2Proof.Machine

/-- The registers of a channel (R17). -/
inductive Reg where
  | cmd
  | status
  | len
  | srcLo
  | srcHi
  | dstLo
  | dstHi
  | srcCapLo
  | srcCapHi
  | dstCapLo
  | dstCapHi
  | resultLo
  | resultHi
deriving DecidableEq, Repr

/-- The register at an offset from the channel's base; none is reserved (R17). -/
def regAt (off : Nat) : Option Reg :=
  match off with
  | 0x00 => some .cmd
  | 0x04 => some .status
  | 0x08 => some .len
  | 0x10 => some .srcLo
  | 0x14 => some .srcHi
  | 0x18 => some .dstLo
  | 0x1C => some .dstHi
  | 0x20 => some .srcCapLo
  | 0x24 => some .srcCapHi
  | 0x28 => some .dstCapLo
  | 0x2C => some .dstCapHi
  | 0x30 => some .resultLo
  | 0x34 => some .resultHi
  | _ => none

/-- The offset of a register from the channel's base (R17). -/
def regOffset : Reg → Nat
  | .cmd => 0x00
  | .status => 0x04
  | .len => 0x08
  | .srcLo => 0x10
  | .srcHi => 0x14
  | .dstLo => 0x18
  | .dstHi => 0x1C
  | .srcCapLo => 0x20
  | .srcCapHi => 0x24
  | .dstCapLo => 0x28
  | .dstCapHi => 0x2C
  | .resultLo => 0x30
  | .resultHi => 0x34

/-- What an offset of the window names. -/
inductive Slot where
  /-- `ID` (R19). -/
  | id
  /-- `CAP` (R20). -/
  | cap
  /-- A register of a channel. -/
  | chan (ch : Nat) (r : Reg)
  /-- Reserved: reads 0, writes ignored (R28). -/
  | reserved
deriving DecidableEq, Repr

/-- The map of R17 on 4-byte-aligned offsets, with `nch` channels. -/
def slotAt (nch off : Nat) : Slot :=
  if off = 0 then .id
  else if off = 4 then .cap
  else if off < 0x40 then .reserved
  else if off / 0x40 - 1 < nch then
    match regAt (off % 0x40) with
    | some r => .chan (off / 0x40 - 1) r
    | none => .reserved
  else .reserved

/-- The offset of a register of channel `ch` from `REG_BASE` (R17). -/
def slotOffset (ch : Nat) (r : Reg) : Nat := 0x40 * (ch + 1) + regOffset r

/-- The word a read of `CAP` gives (R20). -/
def capWord (p : Params) : Word :=
  BitVec.ofNat 32 (p.hasWide.toNat + 2 * 1 + 16 * (p.nch % 16) + 256 * Config.XR)

/-- The word a read of a channel's register gives (R22 to R27). -/
def Chan.read (c : Chan) : Reg → Word
  | .cmd => c.cmd
  | .status => statusWord c
  | .len => c.len
  | .srcLo => c.srcLo
  | .srcHi => c.srcHi
  | .dstLo => c.dstLo
  | .dstHi => c.dstHi
  | .srcCapLo => c.srcCapLo
  | .srcCapHi => c.srcCapHi
  | .dstCapLo => c.dstCapLo
  | .dstCapHi => c.dstCapHi
  | .resultLo => c.resultLo
  | .resultHi => c.resultHi

/-- The upper half of an address: bits at positions at or above `ADDR_WIDTH` are hardwired 0 (R25). -/
def addrHi (addrWidth : Nat) (v : Word) : Word := BitVec.ofNat 32 (v.toNat % 2 ^ (addrWidth - 32))

/-- The lower half of an address (R25). -/
def addrLo (addrWidth : Nat) (v : Word) : Word := BitVec.ofNat 32 (v.toNat % 2 ^ addrWidth)

/-- A host write to a channel's register other than `CMD` (R23 to R27). -/
def Chan.write (addrWidth : Nat) (c : Chan) (v : Word) : Reg → Chan
  | .cmd => c
  | .status => writeStatus c v
  | .len => { c with len := v }
  | .srcLo => { c with srcLo := addrLo addrWidth v }
  | .srcHi => { c with srcHi := addrHi addrWidth v }
  | .dstLo => { c with dstLo := addrLo addrWidth v }
  | .dstHi => { c with dstHi := addrHi addrWidth v }
  | .srcCapLo => { c with srcCapLo := v }
  | .srcCapHi => { c with srcCapHi := v }
  | .dstCapLo => { c with dstCapLo := v }
  | .dstCapHi => { c with dstCapHi := v }
  | .resultLo => c
  | .resultHi => c

/-- The word at a slot (R17). -/
def State.readSlot (s : State) : Slot → Word
  | .id => Config.idValue
  | .cap => capWord s.params
  | .chan ch r => (s.chan ch).read r
  | .reserved => 0

/-- A register access has an effect only when it is 32 bits wide and at a 4-byte-aligned offset (R18). -/
def regAccess (off size : Nat) : Bool := decide (size = 4 ∧ off % 4 = 0)

/-- The bytes that a register read of `size` bytes at an offset returns, little-endian; 0 in every byte of an access that
has no effect (R18). -/
def State.readReg (s : State) (off size : Nat) : List Byte :=
  if regAccess off size then leBytes 4 (s.readSlot (slotAt s.params.nch off)).toNat else List.replicate size 0

/-- The offset of a bus address in the register window; none where the address is outside it (R33). -/
def windowOffset (p : Params) (addr : Nat) : Option Nat :=
  if p.regBase ≤ addr ∧ addr < p.regBase + Config.windowSize then some (addr - p.regBase) else none

/-- The channel at the acceptance of a command word (R29 step 1, R30): operands latched, `CMD <- w`, `BUSY <- 1`,
`DONE <- 0`, `ERR <- 0`, `RESULT <- 0`. -/
def Chan.accept (c : Chan) (w : Word) (contested : Bool) : Chan :=
  { flagsAtAccept c with
    cmd := w, resultLo := 0, resultHi := 0, latch := latchOf c w, prog := .start, raced := contested }

/-- Acceptance of a command word by channel `ch`, one indivisible step (R29). -/
def State.accept (s : State) (ch : Nat) (w : Word) : State :=
  (s.raceAccept (latchOf (s.chan ch) w)).setChan ch
    ((s.chan ch).accept w (s.contested (latchOf (s.chan ch) w)))

/-- A host write of a word with `OP != 0` to `CMD`: accepted when the channel is idle, dropped when it is busy (R22). -/
def State.issue (s : State) (ch : Nat) (w : Word) : State :=
  if (s.chan ch).busy then s.setChan ch (flagsAtDrop (s.chan ch)) else s.accept ch w

end Sys2Proof.Machine
end

