-- ==== Sys2Proof/Machine/Bound.lean ====
section
/-! DEFINITION. The meanings of the 4 BOUND commands (R107), one each over the shared `runBound`. -/

namespace Sys2Proof.Machine

/-- BOUND of a block width and an element width (R107): `RESULT <- WCB(N)`; no capability check, no memory access. -/
def runBound (wide w64 : Bool) (s : State) : Host.Outcome State Fault Refusal :=
  .next (s.complete (BitVec.ofNat 64 (wcb wide w64 s.curChan.latch.count)) 0)

/-- `BOUND128.W32`, word 0x003 with bits 8:6 don't-care (R107). -/
def execBound128W32 (_attrs : Nat) (s : State) : Host.Outcome State Fault Refusal :=
  runBound false false s

/-- `BOUND128.W64`, word 0x023 with bits 8:6 don't-care (R107). -/
def execBound128W64 (_attrs : Nat) (s : State) : Host.Outcome State Fault Refusal :=
  runBound false true s

/-- `BOUND256.W32`, word 0x013 with bits 8:6 don't-care (R107). -/
def execBound256W32 (_attrs : Nat) (s : State) : Host.Outcome State Fault Refusal :=
  runBound true false s

/-- `BOUND256.W64`, word 0x033 with bits 8:6 don't-care (R107). -/
def execBound256W64 (_attrs : Nat) (s : State) : Host.Outcome State Fault Refusal :=
  runBound true true s

end Sys2Proof.Machine
end

