-- ==== Sys2Proof/Machine/Dec.lean ====
section
/-! DEFINITION. The meanings of the 32 DEC commands (R106), one each over the shared `runDec`. -/

namespace Sys2Proof.Machine

/-- The execution of a decode whose pre-checks pass (R106): read the stream, write the elements at `DST`; `RESULT` is the
number of stream bytes consumed. A malformation ends it with `ERR_MALFORMED` (R99), a bus error with `ERR_MEM` (R111);
where both could arise, either (R113, log 7). The elements known before the malformation may have been written. -/
def decodeRun (v : Variant) (l : Latch) (s : State) : State :=
  match decodeStream v (s.inBuf l) l.count with
  | .done xs p memErr =>
    if !memErr && portWrites s.port (decOut v l) then
      { s with mem := s.mem.write l.dst.toNat (elemBytes v.size xs) }.complete (BitVec.ofNat 64 p.offset) 0
    else s.failDirty ErrCode.mem.code (decOut v l)
  | .malformed p memErr =>
    if !memErr && portWrites s.port { base := l.dst.toNat, size := p.known v * v.size } then
      s.failDirty ErrCode.malformed.code (decOut v l)
    else s.failDirty s.eitherCode (decOut v l)
  | .busError _ => s.failDirty ErrCode.mem.code (decOut v l)

/-- DEC in a variant on the running channel's latches (R106): the pre-checks (R103), then the execution. A command whose
buffers cover a device register is refused (R38); one whose ranges met another agent's write ends with free values
(R44). -/
def runDec (v : Variant) (s : State) : Host.Outcome State Fault Refusal :=
  let l := s.curChan.latch
  match precheckDec s.params v l with
  | some e => .next (s.failClean e)
  | none =>
    if onDevice s.port (decIn l) || onDevice s.port (decOut v l) then .refused .deviceBuffer
    else if s.curChan.raced then .next (s.failDirty s.anyCode (decOut v l))
    else .next (decodeRun v l s)

/-- `DEC128.U32.UP.D0`, word 0x002 (R106). -/
def execDec128U32UpD0 (s : State) : Host.Outcome State Fault Refusal :=
  runDec ⟨false, false, false, .up, false⟩ s

/-- `DEC128.U32.UP.D1`, word 0x102 (R106). -/
def execDec128U32UpD1 (s : State) : Host.Outcome State Fault Refusal :=
  runDec ⟨false, false, false, .up, true⟩ s

/-- `DEC128.U32.DN.D0`, word 0x082 (R106). -/
def execDec128U32DnD0 (s : State) : Host.Outcome State Fault Refusal :=
  runDec ⟨false, false, false, .dn, false⟩ s

/-- `DEC128.U32.DN.D1`, word 0x182 (R106). -/
def execDec128U32DnD1 (s : State) : Host.Outcome State Fault Refusal :=
  runDec ⟨false, false, false, .dn, true⟩ s

/-- `DEC128.S32.UP.D0`, word 0x042 (R106). -/
def execDec128S32UpD0 (s : State) : Host.Outcome State Fault Refusal :=
  runDec ⟨false, false, true, .up, false⟩ s

/-- `DEC128.S32.UP.D1`, word 0x142 (R106). -/
def execDec128S32UpD1 (s : State) : Host.Outcome State Fault Refusal :=
  runDec ⟨false, false, true, .up, true⟩ s

/-- `DEC128.S32.DN.D0`, word 0x0c2 (R106). -/
def execDec128S32DnD0 (s : State) : Host.Outcome State Fault Refusal :=
  runDec ⟨false, false, true, .dn, false⟩ s

/-- `DEC128.S32.DN.D1`, word 0x1c2 (R106). -/
def execDec128S32DnD1 (s : State) : Host.Outcome State Fault Refusal :=
  runDec ⟨false, false, true, .dn, true⟩ s

/-- `DEC128.U64.UP.D0`, word 0x022 (R106). -/
def execDec128U64UpD0 (s : State) : Host.Outcome State Fault Refusal :=
  runDec ⟨false, true, false, .up, false⟩ s

/-- `DEC128.U64.UP.D1`, word 0x122 (R106). -/
def execDec128U64UpD1 (s : State) : Host.Outcome State Fault Refusal :=
  runDec ⟨false, true, false, .up, true⟩ s

/-- `DEC128.U64.DN.D0`, word 0x0a2 (R106). -/
def execDec128U64DnD0 (s : State) : Host.Outcome State Fault Refusal :=
  runDec ⟨false, true, false, .dn, false⟩ s

/-- `DEC128.U64.DN.D1`, word 0x1a2 (R106). -/
def execDec128U64DnD1 (s : State) : Host.Outcome State Fault Refusal :=
  runDec ⟨false, true, false, .dn, true⟩ s

/-- `DEC128.S64.UP.D0`, word 0x062 (R106). -/
def execDec128S64UpD0 (s : State) : Host.Outcome State Fault Refusal :=
  runDec ⟨false, true, true, .up, false⟩ s

/-- `DEC128.S64.UP.D1`, word 0x162 (R106). -/
def execDec128S64UpD1 (s : State) : Host.Outcome State Fault Refusal :=
  runDec ⟨false, true, true, .up, true⟩ s

/-- `DEC128.S64.DN.D0`, word 0x0e2 (R106). -/
def execDec128S64DnD0 (s : State) : Host.Outcome State Fault Refusal :=
  runDec ⟨false, true, true, .dn, false⟩ s

/-- `DEC128.S64.DN.D1`, word 0x1e2 (R106). -/
def execDec128S64DnD1 (s : State) : Host.Outcome State Fault Refusal :=
  runDec ⟨false, true, true, .dn, true⟩ s

/-- `DEC256.U32.UP.D0`, word 0x012 (R106). -/
def execDec256U32UpD0 (s : State) : Host.Outcome State Fault Refusal :=
  runDec ⟨true, false, false, .up, false⟩ s

/-- `DEC256.U32.UP.D1`, word 0x112 (R106). -/
def execDec256U32UpD1 (s : State) : Host.Outcome State Fault Refusal :=
  runDec ⟨true, false, false, .up, true⟩ s

/-- `DEC256.U32.DN.D0`, word 0x092 (R106). -/
def execDec256U32DnD0 (s : State) : Host.Outcome State Fault Refusal :=
  runDec ⟨true, false, false, .dn, false⟩ s

/-- `DEC256.U32.DN.D1`, word 0x192 (R106). -/
def execDec256U32DnD1 (s : State) : Host.Outcome State Fault Refusal :=
  runDec ⟨true, false, false, .dn, true⟩ s

/-- `DEC256.S32.UP.D0`, word 0x052 (R106). -/
def execDec256S32UpD0 (s : State) : Host.Outcome State Fault Refusal :=
  runDec ⟨true, false, true, .up, false⟩ s

/-- `DEC256.S32.UP.D1`, word 0x152 (R106). -/
def execDec256S32UpD1 (s : State) : Host.Outcome State Fault Refusal :=
  runDec ⟨true, false, true, .up, true⟩ s

/-- `DEC256.S32.DN.D0`, word 0x0d2 (R106). -/
def execDec256S32DnD0 (s : State) : Host.Outcome State Fault Refusal :=
  runDec ⟨true, false, true, .dn, false⟩ s

/-- `DEC256.S32.DN.D1`, word 0x1d2 (R106). -/
def execDec256S32DnD1 (s : State) : Host.Outcome State Fault Refusal :=
  runDec ⟨true, false, true, .dn, true⟩ s

/-- `DEC256.U64.UP.D0`, word 0x032 (R106). -/
def execDec256U64UpD0 (s : State) : Host.Outcome State Fault Refusal :=
  runDec ⟨true, true, false, .up, false⟩ s

/-- `DEC256.U64.UP.D1`, word 0x132 (R106). -/
def execDec256U64UpD1 (s : State) : Host.Outcome State Fault Refusal :=
  runDec ⟨true, true, false, .up, true⟩ s

/-- `DEC256.U64.DN.D0`, word 0x0b2 (R106). -/
def execDec256U64DnD0 (s : State) : Host.Outcome State Fault Refusal :=
  runDec ⟨true, true, false, .dn, false⟩ s

/-- `DEC256.U64.DN.D1`, word 0x1b2 (R106). -/
def execDec256U64DnD1 (s : State) : Host.Outcome State Fault Refusal :=
  runDec ⟨true, true, false, .dn, true⟩ s

/-- `DEC256.S64.UP.D0`, word 0x072 (R106). -/
def execDec256S64UpD0 (s : State) : Host.Outcome State Fault Refusal :=
  runDec ⟨true, true, true, .up, false⟩ s

/-- `DEC256.S64.UP.D1`, word 0x172 (R106). -/
def execDec256S64UpD1 (s : State) : Host.Outcome State Fault Refusal :=
  runDec ⟨true, true, true, .up, true⟩ s

/-- `DEC256.S64.DN.D0`, word 0x0f2 (R106). -/
def execDec256S64DnD0 (s : State) : Host.Outcome State Fault Refusal :=
  runDec ⟨true, true, true, .dn, false⟩ s

/-- `DEC256.S64.DN.D1`, word 0x1f2 (R106). -/
def execDec256S64DnD1 (s : State) : Host.Outcome State Fault Refusal :=
  runDec ⟨true, true, true, .dn, true⟩ s

end Sys2Proof.Machine
end

