-- ==== Sys2Proof/Machine/Enc.lean ====
section
/-! DEFINITION. The meanings of the 32 ENC commands (R105), one each over the shared `runEnc`. -/

namespace Sys2Proof.Machine

/-- The execution of an encode whose pre-checks pass (R105): read the elements, make the stream, write it at `DST`;
`RESULT` is its length. A bus error on any read or write ends it with `ERR_MEM` (R111). -/
def encodeRun (v : Variant) (l : Latch) (s : State) : State :=
  let out := stream v (elemsAt s.mem l.src.toNat v.size 0 l.count)
  if portReads s.port (encIn v l) && portWrites s.port { base := l.dst.toNat, size := out.length } then
    { s with mem := s.mem.write l.dst.toNat out }.complete (BitVec.ofNat 64 out.length) 0
  else s.failDirty ErrCode.mem.code (encDirty v l)

/-- ENC in a variant on the running channel's latches (R105): the pre-checks (R103), then the execution. A command whose
buffers cover a device register is refused (R38); one whose ranges met another agent's write ends with free values
(R44). -/
def runEnc (v : Variant) (s : State) : Host.Outcome State Fault Refusal :=
  let l := s.curChan.latch
  match precheckEnc s.params v l with
  | some e => .next (s.failClean e)
  | none =>
    if onDevice s.port (encIn v l) || onDevice s.port (encOut l) then .refused .deviceBuffer
    else if s.curChan.raced then .next (s.failDirty s.anyCode (encDirty v l))
    else .next (encodeRun v l s)

/-- `ENC128.U32.UP.D0`, word 0x001 (R105). -/
def execEnc128U32UpD0 (s : State) : Host.Outcome State Fault Refusal :=
  runEnc ⟨false, false, false, .up, false⟩ s

/-- `ENC128.U32.UP.D1`, word 0x101 (R105). -/
def execEnc128U32UpD1 (s : State) : Host.Outcome State Fault Refusal :=
  runEnc ⟨false, false, false, .up, true⟩ s

/-- `ENC128.U32.DN.D0`, word 0x081 (R105). -/
def execEnc128U32DnD0 (s : State) : Host.Outcome State Fault Refusal :=
  runEnc ⟨false, false, false, .dn, false⟩ s

/-- `ENC128.U32.DN.D1`, word 0x181 (R105). -/
def execEnc128U32DnD1 (s : State) : Host.Outcome State Fault Refusal :=
  runEnc ⟨false, false, false, .dn, true⟩ s

/-- `ENC128.S32.UP.D0`, word 0x041 (R105). -/
def execEnc128S32UpD0 (s : State) : Host.Outcome State Fault Refusal :=
  runEnc ⟨false, false, true, .up, false⟩ s

/-- `ENC128.S32.UP.D1`, word 0x141 (R105). -/
def execEnc128S32UpD1 (s : State) : Host.Outcome State Fault Refusal :=
  runEnc ⟨false, false, true, .up, true⟩ s

/-- `ENC128.S32.DN.D0`, word 0x0c1 (R105). -/
def execEnc128S32DnD0 (s : State) : Host.Outcome State Fault Refusal :=
  runEnc ⟨false, false, true, .dn, false⟩ s

/-- `ENC128.S32.DN.D1`, word 0x1c1 (R105). -/
def execEnc128S32DnD1 (s : State) : Host.Outcome State Fault Refusal :=
  runEnc ⟨false, false, true, .dn, true⟩ s

/-- `ENC128.U64.UP.D0`, word 0x021 (R105). -/
def execEnc128U64UpD0 (s : State) : Host.Outcome State Fault Refusal :=
  runEnc ⟨false, true, false, .up, false⟩ s

/-- `ENC128.U64.UP.D1`, word 0x121 (R105). -/
def execEnc128U64UpD1 (s : State) : Host.Outcome State Fault Refusal :=
  runEnc ⟨false, true, false, .up, true⟩ s

/-- `ENC128.U64.DN.D0`, word 0x0a1 (R105). -/
def execEnc128U64DnD0 (s : State) : Host.Outcome State Fault Refusal :=
  runEnc ⟨false, true, false, .dn, false⟩ s

/-- `ENC128.U64.DN.D1`, word 0x1a1 (R105). -/
def execEnc128U64DnD1 (s : State) : Host.Outcome State Fault Refusal :=
  runEnc ⟨false, true, false, .dn, true⟩ s

/-- `ENC128.S64.UP.D0`, word 0x061 (R105). -/
def execEnc128S64UpD0 (s : State) : Host.Outcome State Fault Refusal :=
  runEnc ⟨false, true, true, .up, false⟩ s

/-- `ENC128.S64.UP.D1`, word 0x161 (R105). -/
def execEnc128S64UpD1 (s : State) : Host.Outcome State Fault Refusal :=
  runEnc ⟨false, true, true, .up, true⟩ s

/-- `ENC128.S64.DN.D0`, word 0x0e1 (R105). -/
def execEnc128S64DnD0 (s : State) : Host.Outcome State Fault Refusal :=
  runEnc ⟨false, true, true, .dn, false⟩ s

/-- `ENC128.S64.DN.D1`, word 0x1e1 (R105). -/
def execEnc128S64DnD1 (s : State) : Host.Outcome State Fault Refusal :=
  runEnc ⟨false, true, true, .dn, true⟩ s

/-- `ENC256.U32.UP.D0`, word 0x011 (R105). -/
def execEnc256U32UpD0 (s : State) : Host.Outcome State Fault Refusal :=
  runEnc ⟨true, false, false, .up, false⟩ s

/-- `ENC256.U32.UP.D1`, word 0x111 (R105). -/
def execEnc256U32UpD1 (s : State) : Host.Outcome State Fault Refusal :=
  runEnc ⟨true, false, false, .up, true⟩ s

/-- `ENC256.U32.DN.D0`, word 0x091 (R105). -/
def execEnc256U32DnD0 (s : State) : Host.Outcome State Fault Refusal :=
  runEnc ⟨true, false, false, .dn, false⟩ s

/-- `ENC256.U32.DN.D1`, word 0x191 (R105). -/
def execEnc256U32DnD1 (s : State) : Host.Outcome State Fault Refusal :=
  runEnc ⟨true, false, false, .dn, true⟩ s

/-- `ENC256.S32.UP.D0`, word 0x051 (R105). -/
def execEnc256S32UpD0 (s : State) : Host.Outcome State Fault Refusal :=
  runEnc ⟨true, false, true, .up, false⟩ s

/-- `ENC256.S32.UP.D1`, word 0x151 (R105). -/
def execEnc256S32UpD1 (s : State) : Host.Outcome State Fault Refusal :=
  runEnc ⟨true, false, true, .up, true⟩ s

/-- `ENC256.S32.DN.D0`, word 0x0d1 (R105). -/
def execEnc256S32DnD0 (s : State) : Host.Outcome State Fault Refusal :=
  runEnc ⟨true, false, true, .dn, false⟩ s

/-- `ENC256.S32.DN.D1`, word 0x1d1 (R105). -/
def execEnc256S32DnD1 (s : State) : Host.Outcome State Fault Refusal :=
  runEnc ⟨true, false, true, .dn, true⟩ s

/-- `ENC256.U64.UP.D0`, word 0x031 (R105). -/
def execEnc256U64UpD0 (s : State) : Host.Outcome State Fault Refusal :=
  runEnc ⟨true, true, false, .up, false⟩ s

/-- `ENC256.U64.UP.D1`, word 0x131 (R105). -/
def execEnc256U64UpD1 (s : State) : Host.Outcome State Fault Refusal :=
  runEnc ⟨true, true, false, .up, true⟩ s

/-- `ENC256.U64.DN.D0`, word 0x0b1 (R105). -/
def execEnc256U64DnD0 (s : State) : Host.Outcome State Fault Refusal :=
  runEnc ⟨true, true, false, .dn, false⟩ s

/-- `ENC256.U64.DN.D1`, word 0x1b1 (R105). -/
def execEnc256U64DnD1 (s : State) : Host.Outcome State Fault Refusal :=
  runEnc ⟨true, true, false, .dn, true⟩ s

/-- `ENC256.S64.UP.D0`, word 0x071 (R105). -/
def execEnc256S64UpD0 (s : State) : Host.Outcome State Fault Refusal :=
  runEnc ⟨true, true, true, .up, false⟩ s

/-- `ENC256.S64.UP.D1`, word 0x171 (R105). -/
def execEnc256S64UpD1 (s : State) : Host.Outcome State Fault Refusal :=
  runEnc ⟨true, true, true, .up, true⟩ s

/-- `ENC256.S64.DN.D0`, word 0x0f1 (R105). -/
def execEnc256S64DnD0 (s : State) : Host.Outcome State Fault Refusal :=
  runEnc ⟨true, true, true, .dn, false⟩ s

/-- `ENC256.S64.DN.D1`, word 0x1f1 (R105). -/
def execEnc256S64DnD1 (s : State) : Host.Outcome State Fault Refusal :=
  runEnc ⟨true, true, true, .dn, true⟩ s

end Sys2Proof.Machine
end

