-- ==== Sys2Proof/Machine/Nop.lean ====
section
/-! DEFINITION. The meaning of `NOP` (R104). -/

namespace Sys2Proof.Machine

/-- `NOP`, any word with bits 3:0 = 0: the write is ignored entirely, whatever bits 31:4 hold (R104, R53). -/
def execNop (_ignored : Nat) (s : State) : Host.Outcome State Fault Refusal := .next s

end Sys2Proof.Machine
end

