-- ==== Sys2Proof/Machine/Dispatch.lean ====
section
/-! DEFINITION. One arm per command of the table, each a direct call of its meaning. -/

namespace Sys2Proof.Machine

def exec (i : Instr) (s : State) : Host.Outcome State Fault Refusal :=
  match i with
  | .nop a => Sys2Proof.Machine.execNop a s
  | .enc128U32UpD0 => Sys2Proof.Machine.execEnc128U32UpD0 s
  | .enc128U32UpD1 => Sys2Proof.Machine.execEnc128U32UpD1 s
  | .enc128U32DnD0 => Sys2Proof.Machine.execEnc128U32DnD0 s
  | .enc128U32DnD1 => Sys2Proof.Machine.execEnc128U32DnD1 s
  | .enc128S32UpD0 => Sys2Proof.Machine.execEnc128S32UpD0 s
  | .enc128S32UpD1 => Sys2Proof.Machine.execEnc128S32UpD1 s
  | .enc128S32DnD0 => Sys2Proof.Machine.execEnc128S32DnD0 s
  | .enc128S32DnD1 => Sys2Proof.Machine.execEnc128S32DnD1 s
  | .enc128U64UpD0 => Sys2Proof.Machine.execEnc128U64UpD0 s
  | .enc128U64UpD1 => Sys2Proof.Machine.execEnc128U64UpD1 s
  | .enc128U64DnD0 => Sys2Proof.Machine.execEnc128U64DnD0 s
  | .enc128U64DnD1 => Sys2Proof.Machine.execEnc128U64DnD1 s
  | .enc128S64UpD0 => Sys2Proof.Machine.execEnc128S64UpD0 s
  | .enc128S64UpD1 => Sys2Proof.Machine.execEnc128S64UpD1 s
  | .enc128S64DnD0 => Sys2Proof.Machine.execEnc128S64DnD0 s
  | .enc128S64DnD1 => Sys2Proof.Machine.execEnc128S64DnD1 s
  | .enc256U32UpD0 => Sys2Proof.Machine.execEnc256U32UpD0 s
  | .enc256U32UpD1 => Sys2Proof.Machine.execEnc256U32UpD1 s
  | .enc256U32DnD0 => Sys2Proof.Machine.execEnc256U32DnD0 s
  | .enc256U32DnD1 => Sys2Proof.Machine.execEnc256U32DnD1 s
  | .enc256S32UpD0 => Sys2Proof.Machine.execEnc256S32UpD0 s
  | .enc256S32UpD1 => Sys2Proof.Machine.execEnc256S32UpD1 s
  | .enc256S32DnD0 => Sys2Proof.Machine.execEnc256S32DnD0 s
  | .enc256S32DnD1 => Sys2Proof.Machine.execEnc256S32DnD1 s
  | .enc256U64UpD0 => Sys2Proof.Machine.execEnc256U64UpD0 s
  | .enc256U64UpD1 => Sys2Proof.Machine.execEnc256U64UpD1 s
  | .enc256U64DnD0 => Sys2Proof.Machine.execEnc256U64DnD0 s
  | .enc256U64DnD1 => Sys2Proof.Machine.execEnc256U64DnD1 s
  | .enc256S64UpD0 => Sys2Proof.Machine.execEnc256S64UpD0 s
  | .enc256S64UpD1 => Sys2Proof.Machine.execEnc256S64UpD1 s
  | .enc256S64DnD0 => Sys2Proof.Machine.execEnc256S64DnD0 s
  | .enc256S64DnD1 => Sys2Proof.Machine.execEnc256S64DnD1 s
  | .dec128U32UpD0 => Sys2Proof.Machine.execDec128U32UpD0 s
  | .dec128U32UpD1 => Sys2Proof.Machine.execDec128U32UpD1 s
  | .dec128U32DnD0 => Sys2Proof.Machine.execDec128U32DnD0 s
  | .dec128U32DnD1 => Sys2Proof.Machine.execDec128U32DnD1 s
  | .dec128S32UpD0 => Sys2Proof.Machine.execDec128S32UpD0 s
  | .dec128S32UpD1 => Sys2Proof.Machine.execDec128S32UpD1 s
  | .dec128S32DnD0 => Sys2Proof.Machine.execDec128S32DnD0 s
  | .dec128S32DnD1 => Sys2Proof.Machine.execDec128S32DnD1 s
  | .dec128U64UpD0 => Sys2Proof.Machine.execDec128U64UpD0 s
  | .dec128U64UpD1 => Sys2Proof.Machine.execDec128U64UpD1 s
  | .dec128U64DnD0 => Sys2Proof.Machine.execDec128U64DnD0 s
  | .dec128U64DnD1 => Sys2Proof.Machine.execDec128U64DnD1 s
  | .dec128S64UpD0 => Sys2Proof.Machine.execDec128S64UpD0 s
  | .dec128S64UpD1 => Sys2Proof.Machine.execDec128S64UpD1 s
  | .dec128S64DnD0 => Sys2Proof.Machine.execDec128S64DnD0 s
  | .dec128S64DnD1 => Sys2Proof.Machine.execDec128S64DnD1 s
  | .dec256U32UpD0 => Sys2Proof.Machine.execDec256U32UpD0 s
  | .dec256U32UpD1 => Sys2Proof.Machine.execDec256U32UpD1 s
  | .dec256U32DnD0 => Sys2Proof.Machine.execDec256U32DnD0 s
  | .dec256U32DnD1 => Sys2Proof.Machine.execDec256U32DnD1 s
  | .dec256S32UpD0 => Sys2Proof.Machine.execDec256S32UpD0 s
  | .dec256S32UpD1 => Sys2Proof.Machine.execDec256S32UpD1 s
  | .dec256S32DnD0 => Sys2Proof.Machine.execDec256S32DnD0 s
  | .dec256S32DnD1 => Sys2Proof.Machine.execDec256S32DnD1 s
  | .dec256U64UpD0 => Sys2Proof.Machine.execDec256U64UpD0 s
  | .dec256U64UpD1 => Sys2Proof.Machine.execDec256U64UpD1 s
  | .dec256U64DnD0 => Sys2Proof.Machine.execDec256U64DnD0 s
  | .dec256U64DnD1 => Sys2Proof.Machine.execDec256U64DnD1 s
  | .dec256S64UpD0 => Sys2Proof.Machine.execDec256S64UpD0 s
  | .dec256S64UpD1 => Sys2Proof.Machine.execDec256S64UpD1 s
  | .dec256S64DnD0 => Sys2Proof.Machine.execDec256S64DnD0 s
  | .dec256S64DnD1 => Sys2Proof.Machine.execDec256S64DnD1 s
  | .bound128W32 a => Sys2Proof.Machine.execBound128W32 a s
  | .bound128W64 a => Sys2Proof.Machine.execBound128W64 a s
  | .bound256W32 a => Sys2Proof.Machine.execBound256W32 a s
  | .bound256W64 a => Sys2Proof.Machine.execBound256W64 a s

end Sys2Proof.Machine
end

