-- ==== Sys2Proof/Machine/Inner.lean ====
section
/-! DEFINITION. The inner steps of a busy engine (R29 step 2): progress by one block, which only the hidden state shows
(R31). The command's memory effects stand in its completion step (R43, R45; log 5). -/

namespace Sys2Proof.Machine

/-- One block of an encode (R60, R61, R93): its elements are read, its deltas taken from the running baseline, and the
stream offset moves past its bytes (past the baseline's too in block 0). The baseline is then the block's last element
(R62). -/
def encProgress (v : Variant) (l : Latch) (s : State) (p : Progress) : Progress :=
  let n := blockLen l.count v.bs p.block
  let xs := elemsAt s.mem l.src.toNat v.size (p.block * v.bs) n
  if p.block < blockCount l.count v.bs
      && portReads s.port { base := l.src.toNat + p.block * v.bs * v.size, size := n * v.size } then
    { block := p.block + 1,
      offset := (if p.block = 0 then v.size else p.offset) + (encodeBlock v (deltaBlock v p.block p.base xs)).length,
      elem := p.elem + n, base := xs.getLastD p.base, scratch := p.scratch }
  else p

/-- The progress at the start of block 0 of a decode, once the baseline is read; none where it cannot be (R101). -/
def readBaseline (v : Variant) (buf : InBuf) : Option Progress :=
  match readData buf v.size { pos := 0, memErr := false } with
  | .ok bs { pos := pos, memErr := false } => some (.afterBase pos (fromLE bs))
  | _ => none

/-- One block of a decode (R100, R101). A block that would end the command with an error makes no progress: the
completion step reports it. -/
def decProgress (v : Variant) (l : Latch) (s : State) (p : Progress) : Progress :=
  if p.block < blockCount l.count v.bs then
    match (if p.block = 0 then readBaseline v (s.inBuf l) else some p) with
    | none => p
    | some q =>
      match decodeStep v (s.inBuf l) l.count q false with
      | .done _ r false => r
      | _ => p
  else p

/-- The progress of a channel's command after one more inner step. A command that a pre-check or a device register ends,
and a raced one, make none. -/
def State.progressOf (s : State) (c : Chan) : Progress :=
  if c.raced then c.prog
  else
    match latchKind c.latch with
    | some (.enc v) =>
      if precheckEnc s.params v c.latch = none && !onDevice s.port (encIn v c.latch) && !onDevice s.port (encOut c.latch)
      then encProgress v c.latch s c.prog else c.prog
    | some (.dec v) =>
      if precheckDec s.params v c.latch = none && !onDevice s.port (decIn c.latch) && !onDevice s.port (decOut v c.latch)
      then decProgress v c.latch s c.prog else c.prog
    | _ => c.prog

/-- One inner step of the engine of channel `ch`; an idle engine does nothing (R123). -/
def State.innerStep (s : State) (ch : Nat) : State :=
  if (s.chan ch).busy then s.setChan ch { s.chan ch with prog := s.progressOf (s.chan ch) } else s

end Sys2Proof.Machine
end

