-- ==== Sys2Proof/Machine/Agenda.lean ====
section
/-! DEFINITION. What each entry of the agenda does: host accesses (R18, R33, R44), the engine's run (R29), the forms of
R57, reset (R124, R125), and what happens when the agenda is empty (R123, R133). -/

namespace Sys2Proof.Machine

/-- The engine of channel `ch` fetches its latched command word and runs it to completion: a command by `exec`, an
illegal word by the error completion with `ERR_ILLEGAL` (R52, R53). An idle engine does nothing (R123). -/
def runEngine (ch : Nat) (s : State) : Host.Outcome State Fault Refusal :=
  if (s.chan ch).busy then
    match decodeCmd (s.chan ch).latch.cmd with
    | .ok i => exec i (s.select ch)
    | .rejected _ => .next ((s.select ch).failClean .illegal)
  else .next s

/-- A host write of a command word to `CMD` of channel `ch` (R22): a `NOP` is run at once, which changes nothing (R104);
any other word is accepted or dropped. -/
def writeCmd (ch : Nat) (w : Word) (s : State) : Host.Outcome State Fault Refusal :=
  match decodeCmd w with
  | .ok (.nop n) => exec (.nop n) (s.select ch)
  | _ => .next (s.issue ch w)

/-- A host register write (R18, R22 to R28). -/
def hostRegWrite (addr : Nat) (data : List Byte) (s : State) : Host.Outcome State Fault Refusal :=
  match windowOffset s.params addr with
  | none => .refused .outsideWindow
  | some off =>
    if regAccess off data.length then
      match slotAt s.params.nch off with
      | .chan ch .cmd => writeCmd ch (wordOfBytes data) s
      | .chan ch r => .next (s.setChan ch ((s.chan ch).write s.params.addrWidth (wordOfBytes data) r))
      | _ => .next s
    else .next s

/-- A host register read (R18): the bytes returned stand in `busData`; nothing else changes. -/
def hostRegRead (addr size : Nat) (s : State) : Host.Outcome State Fault Refusal :=
  match windowOffset s.params addr with
  | none => .refused .outsideWindow
  | some off => .next { s with busData := s.readReg off size }

/-- A host write to memory by its own path (R33): a busy command whose ranges it meets is raced (R44). -/
def hostMemWrite (addr : Nat) (data : List Byte) (s : State) : Host.Outcome State Fault Refusal :=
  let r : Range := { base := addr, size := data.length }
  if !r.valid s.params.addrWidth then .fault (.noSuchAddress addr)
  else if onDevice s.port r then .refused .deviceAccess
  else .next { s.raceWrite r with mem := s.mem.write addr data }

/-- The byte a host read gives at an address: unspecified where a busy command may write it (R44). -/
def State.hostByte (s : State) (addr i : Nat) : Byte :=
  if s.unsettled (addr + i) then Config.freeByte s.draws i else s.mem.get (addr + i)

/-- A host read of memory by its own path (R33, R44). -/
def hostMemRead (addr size : Nat) (s : State) : Host.Outcome State Fault Refusal :=
  let r : Range := { base := addr, size := size }
  if !r.valid s.params.addrWidth then .fault (.noSuchAddress addr)
  else if onDevice s.port r then .refused .deviceAccess
  else .next { s with busData := (List.range size).map (s.hostByte addr), draws := s.draws + 1 }

/-- `WAIT CH<n>` (R57): read `STATUS`; while it shows `BUSY = 1` the engine goes on and the loop comes round again.
A channel from `NCH` to 62 is a reserved offset of the window and reads 0 (R28). DESIGN CHOICE (log 16): one of 63 or more,
whose `STATUS` would lie past the window (R17), reads 0 too, where `hostRegRead` at that address is refused. -/
def hostWait (ch : Nat) (s : State) : State :=
  let t := { s with busData := s.readReg (slotOffset ch .status) 4 }
  if (s.chan ch).busy then { t with inputs := .engine ch :: .wait ch :: s.inputs } else t

/-- `RUN CH<n>, <word>` (R57): the `CMD` write, then `WAIT`. Here the engine of an accepted command runs in the same
step, with nothing between acceptance and completion (R45, log 4).
A write to a channel from `NCH` to 62 is a write to a reserved offset and ignored (R28). DESIGN CHOICE (log 16): one to a
channel of 63 or more, whose `CMD` would lie past the window (R17), is ignored too, where `hostRegWrite` at that address is
refused. -/
def hostRun (ch : Nat) (w : Word) (s : State) : Host.Outcome State Fault Refusal :=
  let t := { s with inputs := .wait ch :: s.inputs }
  if ch < s.params.nch then
    match decodeCmd w with
    | .ok (.nop n) => exec (.nop n) (t.select ch)
    | _ => if (t.chan ch).busy then .next (t.issue ch w) else runEngine ch (t.issue ch w)
  else .next t

/-- A command in progress at reset is abandoned: every byte that R125 lists for it, as far as it exists (R33), gets a free
value, also where a pre-check would have ended the command (log 9). DESIGN CHOICE (log 11): R38 does not say when a model
refuses a command over a device register; here that is at its completion step, so one that a reset abandons before is not
refused, and its range is drawn like any other. -/
def State.abandon (s : State) (c : Chan) : State :=
  if c.busy then s.scramble ((abandonedRange c.latch).within s.params.addrWidth) else s

/-- Reset (R124 to R126): every command in progress is abandoned, every register and all hidden state get their reset
values; memory outside the abandoned write ranges, and what is the platform's and the hosts', stay. DESIGN CHOICE (log 17):
the spec speaks of a reset that begins and ends, and its end is the platform's (R125, R127); here it is one step, so no host
access falls between the two. -/
def State.resetNow (s : State) : State :=
  let t := s.chans.foldl State.abandon s
  { State.resetWith s.params with mem := t.mem, port := s.port, inputs := s.inputs, busData := s.busData, draws := t.draws }

/-- The lowest channel whose engine is busy. -/
def State.firstBusy (s : State) : Option Nat := s.chans.findIdx? (·.busy)

/-- With nothing on the agenda a busy engine still goes on to its completion (R133: weak fairness), the lowest channel
first (log 4); with no busy engine nothing happens (R123). -/
def idleStep (s : State) : Host.Outcome State Fault Refusal :=
  match s.firstBusy with
  | some ch => runEngine ch s
  | none => .next s

/-- One entry of the agenda. -/
def perform (i : Input) (s : State) : Host.Outcome State Fault Refusal :=
  match i with
  | .regWrite addr data => hostRegWrite addr data s
  | .regRead addr size => hostRegRead addr size s
  | .memWrite addr data => hostMemWrite addr data s
  | .memRead addr size => hostMemRead addr size s
  | .engine ch => runEngine ch s
  | .tick ch => .next (s.innerStep ch)
  | .wait ch => .next (hostWait ch s)
  | .run ch w => hostRun ch w s
  | .reset => .next s.resetNow

/-- `WR <reg>, <v>` on a channel's register (R57). -/
def wrReg (p : Params) (ch : Nat) (r : Reg) (v : Word) : Input :=
  .regWrite (p.regBase + slotOffset ch r) (leBytes 4 v.toNat)

/-- `RD <reg>` on a channel's register (R57). -/
def rdReg (p : Params) (ch : Nat) (r : Reg) : Input := .regRead (p.regBase + slotOffset ch r) 4

/-- `WR64 <X>, <v>` (R57): the low half, then the high half. -/
def wr64 (p : Params) (ch : Nat) (lo hi : Reg) (v : DWord) : List Input :=
  [wrReg p ch lo (v.extractLsb' 0 32), wrReg p ch hi (v.extractLsb' 32 32)]

/-- `CMD CH<n>, <mnemonic>` (R57). -/
def cmdInput (p : Params) (ch : Nat) (i : Instr) : Input := wrReg p ch .cmd (encode i)

/-- `RUN CH<n>, <mnemonic>` (R57) as its two actions, so that others may come between them. -/
def runInputs (p : Params) (ch : Nat) (i : Instr) : List Input := [cmdInput p ch i, .wait ch]

end Sys2Proof.Machine
end

