-- ==== Sys2Proof/Machine/Step.lean ====
section
/-! DEFINITION. One step of the machine: the next entry of the agenda. -/

namespace Sys2Proof.Machine

/-- One step (R3, R29): the head of the agenda is taken off and performed; with an empty agenda a busy engine goes on. -/
def step (s : State) : Host.Outcome State Fault Refusal :=
  match s.inputs with
  | [] => idleStep s
  | i :: rest => perform i { s with inputs := rest }

/-- The state in which the next step runs the command word `w` on channel 0 (log 4): `RUN CH0, w` stands at the head of
the agenda and channel 0 is idle, so that the word is accepted. -/
def State.withFetchWord (s : State) (nbits w : Nat) : State :=
  { s.setChan 0 { s.chan 0 with eng := .idle } with
    inputs := .run 0 (BitVec.ofNat 32 (w % 2 ^ nbits)) :: s.inputs }

end Sys2Proof.Machine
end

