-- ==== Sys2Proof/Safety.lean ====
section
/-! DEFINITION. The terms that claims are stated in: the invariant that every step keeps, what a command leaves alone,
when a command executes normally, and the signed reading of R10. -/

namespace Sys2Proof.Machine

/-- A channel is in a legal state: no reserved error code (R110), no address bit at or above `ADDR_WIDTH` (R25), `RESULT`
and `ERR` 0 and `DONE` clear while busy (R29, R131), `CMD` the running word while busy (R22), no progress while idle. -/
structure Chan.Inv (addrWidth : Nat) (c : Chan) : Prop where
  err : c.err.toNat ≤ 7
  srcHi : c.srcHi.toNat < 2 ^ (addrWidth - 32)
  dstHi : c.dstHi.toNat < 2 ^ (addrWidth - 32)
  latchSrc : c.latch.src.toNat < 2 ^ addrWidth
  latchDst : c.latch.dst.toNat < 2 ^ addrWidth
  busyFlags : c.eng = .busy → c.done = false ∧ c.err = 0 ∧ c.resultLo = 0 ∧ c.resultHi = 0
  busyWord : c.eng = .busy → c.latch.cmd = c.cmd ∧ opField c.cmd ≠ 0
  idleHidden : c.eng = .idle → c.raced = false ∧ c.prog = .start

/-- The machine is in a legal state: legal parameters (R8), `NCH` channels (R121), memory in canonical form, every
channel legal. -/
structure State.Inv (s : State) : Prop where
  params : s.params.Legal
  chans : s.chans.length = s.params.nch
  mem : s.mem.wf = true
  chan : ∀ c ∈ s.chans, c.Inv s.params.addrWidth

/-- Every byte outside a range is as before. -/
def SameOutside (m n : Memory) (r : Range) : Prop := ∀ a, r.has a = false → n.get a = m.get a

/-- Every byte of memory is as before. -/
def SameMemory (m n : Memory) : Prop := ∀ a, n.get a = m.get a

/-- Nothing but memory, the draw counter and channel `ch` differs: the parameters, the platform's answers, the agenda,
the last host read and every other channel are as before (R121). -/
structure OnlyChan (s t : State) (ch : Nat) : Prop where
  params : t.params = s.params
  port : t.port = s.port
  inputs : t.inputs = s.inputs
  cur : t.cur = s.cur
  busData : t.busData = s.busData
  count : t.chans.length = s.chans.length
  others : ∀ k, k ≠ ch → t.chan k = s.chan k

/-- What a completion leaves alone in its own channel: `CMD`, `DROPPED`, the operand registers and the latches (R32). -/
structure KeepsOperands (c d : Chan) : Prop where
  cmd : d.cmd = c.cmd
  dropped : d.dropped = c.dropped
  len : d.len = c.len
  srcLo : d.srcLo = c.srcLo
  srcHi : d.srcHi = c.srcHi
  dstLo : d.dstLo = c.dstLo
  dstHi : d.dstHi = c.dstHi
  srcCapLo : d.srcCapLo = c.srcCapLo
  srcCapHi : d.srcCapHi = c.srcCapHi
  dstCapLo : d.dstCapLo = c.dstCapLo
  dstCapHi : d.dstCapHi = c.dstCapHi
  latch : d.latch = c.latch

/-- A channel's hidden state is as before: its latches and progress (R30, R31) and the mark of a race (log 8). -/
structure KeepsHidden (c d : Chan) : Prop where
  latch : d.latch = c.latch
  prog : d.prog = c.prog
  raced : d.raced = c.raced

/-- `RESULT = {RESULT_HI, RESULT_LO}` (R27). -/
def Chan.result (c : Chan) : DWord := pairVal c.resultHi c.resultLo

/-- The running command of state `s` has completed in state `t` with an error code, 0 for none (R29 step 3, R114): `ERR`
holds it, `DONE = 1`, `BUSY = 0`, and nothing else of the machine changed but `RESULT`, memory and the draw counter. -/
structure CompletedWith (s t : State) (err : BitVec 4) : Prop where
  err : t.curChan.err = err
  done : t.curChan.done = true
  idle : t.curChan.eng = .idle
  operands : KeepsOperands s.curChan t.curChan
  frame : OnlyChan s t s.cur

/-- The conditions under which an encode gets to execute: the running channel exists, the pre-checks 2 to 5 of R103 hold,
and no buffer covers a device register (R38). -/
structure EncReady (v : Variant) (s : State) : Prop where
  current : s.cur < s.chans.length
  capability : v.wide = true → s.params.hasWide = true
  inValid : (encIn v s.curChan.latch).valid s.params.addrWidth = true
  outValid : (encOut s.curChan.latch).valid s.params.addrWidth = true
  capacity : v.wcb s.curChan.latch.count ≤ s.curChan.latch.dstCap.toNat
  apart : (encIn v s.curChan.latch).meets (encOut s.curChan.latch) = false
  noDeviceIn : onDevice s.port (encIn v s.curChan.latch) = false
  noDeviceOut : onDevice s.port (encOut s.curChan.latch) = false

/-- The conditions under which a decode gets to execute: the running channel exists, the pre-checks 2 to 5 of R103 hold,
and no buffer covers a device register (R38). -/
structure DecReady (v : Variant) (s : State) : Prop where
  current : s.cur < s.chans.length
  capability : v.wide = true → s.params.hasWide = true
  inValid : (decIn s.curChan.latch).valid s.params.addrWidth = true
  outValid : (decOut v s.curChan.latch).valid s.params.addrWidth = true
  capacity : s.curChan.latch.count * v.size ≤ s.curChan.latch.dstCap.toNat
  apart : (decIn s.curChan.latch).meets (decOut v s.curChan.latch) = false
  noDeviceIn : onDevice s.port (decIn s.curChan.latch) = false
  noDeviceOut : onDevice s.port (decOut v s.curChan.latch) = false

/-- The elements that an encode of the running channel reads (R105). -/
def encInput (v : Variant) (s : State) : List Nat :=
  elemsAt s.mem s.curChan.latch.src.toNat v.size 0 s.curChan.latch.count

/-- The stream that an encode of the running channel makes (R91, R105). -/
def encOutput (v : Variant) (s : State) : List Byte := stream v (encInput v s)

/-- What the reader makes of the input buffer of a decode of the running channel (R101). -/
def decOutcome (v : Variant) (s : State) : StreamOut :=
  decodeStream v (s.inBuf s.curChan.latch) s.curChan.latch.count

/-- The signed reading of a `w`-bit pattern (R10). -/
def signedReading (w p : Nat) : Int := if p < 2 ^ (w - 1) then (p : Int) else (p : Int) - 2 ^ w

/-- The reading of a pattern that a variant's signedness declares (R6, R10). -/
def reading (v : Variant) (p : Nat) : Int := if v.signed then signedReading v.width p else p

/-- Every element fits the variant's width. -/
abbrev Fits (v : Variant) (xs : List Nat) : Prop := ∀ x ∈ xs, x < 2 ^ v.width

/-- A buffer holds a byte string from an offset on, within its limit, where the memory port answers every read. -/
structure Holds (buf : InBuf) (off : Nat) (bs : List Byte) : Prop where
  bytes : buf.mem.read (buf.base + off) bs.length = bs
  limit : off + bs.length ≤ buf.lim
  port : portReads buf.port { base := buf.base + off, size := bs.length } = true

/-- The command ends with an error before any memory access: the code is reported, `RESULT = 0`, and memory is as before
(R103, R114). -/
def EndsClean (i : Instr) (s : State) (err : BitVec 4) : Prop :=
  ∃ t, exec i s = .next t ∧ CompletedWith s t err ∧ t.curChan.result = 0 ∧ t.mem = s.mem

/-- The command ends with an error during execution: the code is reported, and no byte outside the write range has changed
(R114). -/
def EndsDirty (i : Instr) (s : State) (err : BitVec 4) (r : Range) : Prop :=
  ∃ t, exec i s = .next t ∧ CompletedWith s t err ∧ SameOutside s.mem t.mem r

/-- The elements that the blocks' slot values give from block `k` on, carrying the running baseline (R63). -/
def undeltaBlocks (v : Variant) : Nat → Nat → List (List Nat) → List Nat
  | _, _, [] => []
  | k, base, vals :: rest =>
    undeltaBlock v k base vals ++ undeltaBlocks v (k + 1) ((undeltaBlock v k base vals).getLastD base) rest

/-- Channel `ch` runs an encode that gets to execute: busy with that command (R29), not raced, its conditions met. -/
structure EncRunning (v : Variant) (s : State) (ch : Nat) : Prop where
  busy : (s.chan ch).eng = .busy
  word : decodeCmd (s.chan ch).latch.cmd = .ok (.enc v)
  unraced : (s.chan ch).raced = false
  ready : EncReady v { s with cur := ch }

/-- Channel `ch` runs a decode that gets to execute: busy with that command (R29), not raced, its conditions met. -/
structure DecRunning (v : Variant) (s : State) (ch : Nat) : Prop where
  busy : (s.chan ch).eng = .busy
  word : decodeCmd (s.chan ch).latch.cmd = .ok (.dec v)
  unraced : (s.chan ch).raced = false
  ready : DecReady v { s with cur := ch }

/-- `n` steps, one after another; the first that does not answer a next state ends them. -/
def stepN : Nat → State → Host.Outcome State Fault Refusal
  | 0, s => .next s
  | n + 1, s =>
    match step s with
    | .next t => stepN n t
    | .fault f => .fault f
    | .refused r => .refused r

/-- A step is safe when it neither faults nor is refused. -/
def StepSafe (s : State) : Prop := ∃ t, step s = .next t

end Sys2Proof.Machine
end

