-- ==== Sys2Proof/Certificates/Slice0/Obligations.lean ====
section
/-! DEFINITION. The statements for the provers. -/

open Sys2Proof Sys2Proof.Machine

/-! ### Encoding -/

/-- R49, R50, R56: the word of a well-formed command, and its four bytes, decode to the command. That a NOP and a BOUND carry
their ignored bits, which R56 writes as 0, is the model's choice (log 14). -/
def Obligations.DecodeOfEncode : Prop :=
  ∀ i : Instr, i.wf = true → decodeCmd (encode i) = .ok i ∧ decodeBytes (encodeBytes i) = .ok i

/-- A word that decodes is the word of the command it decodes to, so no bit of it is dropped. For ENC and DEC this is R50 and
R52. For NOP and BOUND it is the model's choice (log 14): R53 and R56 give NOP one word and write bits 8:6 of BOUND as 0, and
the model keeps the ignored bits as operands. -/
def Obligations.EncodeOfDecode : Prop :=
  ∀ (w : Word) (i : Instr), decodeCmd w = .ok i → i.wf = true ∧ encode i = w

/-- R52, R53: exactly which words are commands, which have a reserved `OP`, and which have a reserved bit set. -/
def Obligations.DecodeRejectsExactlyIllegalWords : Prop :=
  ∀ w : Word,
    (decodeCmd w = .rejected .reservedOp ↔ 4 ≤ w.toNat % 16) ∧
    (decodeCmd w = .rejected .reservedBits ↔ 1 ≤ w.toNat % 16 ∧ w.toNat % 16 ≤ 3 ∧ w.toNat / 512 ≠ 0) ∧
    ((∃ i, decodeCmd w = .ok i) ↔ w.toNat % 16 = 0 ∨ (w.toNat % 16 ≤ 3 ∧ w.toNat / 512 = 0))

/-- R56: the examples of the rule, and a word of each other family, decode to what their mnemonics spell. That the ignored
bits of the last two words are operands is the model's choice (log 14). -/
def Obligations.SampleWordsDecode : Prop :=
  decodeCmd 0x00000101 = .ok .enc128U32UpD1 ∧ decodeCmd 0x000000F2 = .ok .dec256S64DnD0 ∧
  decodeCmd 0x00000033 = .ok (.bound256W64 0) ∧ decodeCmd 0x000001C3 = .ok (.bound128W32 7) ∧
  decodeCmd 0x00000010 = .ok (.nop 1)

/-- R56: "The encoding of a mnemonic is `OP | V<<4 | W64<<5 | S<<6 | DIR<<7 | D1<<8`", for every ENC, DEC and BOUND.
That a BOUND carries its bits 8:6 as an operand, which R56 writes as 0, is the model's choice (log 14). -/
def Obligations.EncodingIsTheFieldsInPlace : Prop :=
  ∀ v : Variant,
    let rest := (v.wide.toNat <<< 4) ||| (v.w64.toNat <<< 5)
    let attrs := (v.signed.toNat <<< 6) ||| ((if v.dir = .dn then 1 else 0) <<< 7) ||| (v.d1.toNat <<< 8)
    (encode (.enc v)).toNat = 1 ||| rest ||| attrs ∧ (encode (.dec v)).toNat = 2 ||| rest ||| attrs ∧
    (encode (.bound v.wide v.w64 (attrs / 64))).toNat = 3 ||| rest ||| attrs

/-! ### The step, the engine and the invariant -/

/-- R22, R29, R45 (that a run is one step is the model's reading of R45, log 5): where the next entry of the agenda makes a
channel's engine run, or is the R57 form RUN on an idle channel, the step is `exec` of the decoded command; a NOP is run at
its write. -/
def Obligations.StepRunsTheDecodedCommand : Prop :=
  (∀ (s : State) (ch : Nat) (rest : List Input) (i : Instr),
    s.inputs = .engine ch :: rest → (s.chan ch).eng = .busy → decodeCmd (s.chan ch).latch.cmd = .ok i →
    step s = exec i { s with inputs := rest, cur := ch }) ∧
  (∀ (s : State) (ch : Nat) (w : Word) (rest : List Input) (i : Instr),
    s.inputs = .run ch w :: rest → s.chans.length = s.params.nch → ch < s.params.nch → (s.chan ch).eng = .idle →
    opField w ≠ 0 → decodeCmd w = .ok i →
    step s = exec i ((({ s with inputs := .wait ch :: rest } : State).accept ch w).select ch)) ∧
  (∀ (s : State) (ch n : Nat) (w : Word) (rest : List Input),
    s.inputs = .run ch w :: rest → ch < s.params.nch → decodeCmd w = .ok (.nop n) →
    step s = exec (.nop n) { s with inputs := .wait ch :: rest, cur := ch })

/-- R52, R53, R110: a busy channel's engine completes an illegal word with `ERR_ILLEGAL`, `RESULT = 0` and no memory
access. -/
def Obligations.IllegalWordCompletesWithErrIllegal : Prop :=
  ∀ (s : State) (ch : Nat) (rest : List Input),
    s.inputs = .engine ch :: rest → (s.chan ch).eng = .busy →
    (4 ≤ (s.chan ch).latch.cmd.toNat % 16 ∨
      (1 ≤ (s.chan ch).latch.cmd.toNat % 16 ∧ (s.chan ch).latch.cmd.toNat / 512 ≠ 0)) →
    ∃ t, step s = .next t ∧ CompletedWith { s with inputs := rest, cur := ch } t 1 ∧ t.curChan.result = 0 ∧ t.mem = s.mem

/-- The invariant of R8, R22, R25, R29, R110, R121 and R131, of the memory's canonical form, and of an idle channel's empty
hidden state (the model's choice, log 3): every step keeps it. -/
def Obligations.StepKeepsInvariant : Prop := ∀ s t : State, s.Inv → step s = .next t → t.Inv

/-- The state after reset meets the invariant, for all legal build parameters; `State.reset` itself has the parameters of
log 1 (the model's choice). -/
def Obligations.ResetMeetsInvariant : Prop :=
  (∀ p : Params, p.Legal → (State.resetWith p).Inv) ∧ State.reset.Inv

/-- R133 (weak fairness, by the model's schedule, log 4): with nothing on the agenda and no device register behind the
port, a step of a machine with a busy channel completes a command, so that fewer channels are busy. -/
def Obligations.BusyChannelsCompleteInTurn : Prop :=
  ∀ s : State, s.Inv → s.inputs = [] → (∃ c ∈ s.chans, c.eng = .busy) → (∀ g ∈ s.port, g.device = false) →
    ∃ t, step s = .next t ∧ t.chans.countP (·.busy) < s.chans.countP (·.busy)

/-- R29, R31: an inner step of an engine (a block each, the model's choice, log 5) changes nothing but that channel's hidden
progress; what it makes of it is in the next two statements. -/
def Obligations.InnerStepChangesOnlyProgress : Prop :=
  ∀ (s : State) (ch : Nat) (rest : List Input), s.inputs = .tick ch :: rest →
    ∃ t, step s = .next t ∧ t.mem = s.mem ∧ t.draws = s.draws ∧ OnlyChan { s with inputs := rest } t ch ∧
      t.chan ch = { s.chan ch with prog := (t.chan ch).prog }

/-- R62, R31 (an inner step is a block, log 5): an inner step of a running encode moves it to the next block, whose running
baseline is `x[start_k - 1]` of the input. Of a running decode whose stream passes the reader with every read answered, `k`
inner steps from the start decode `k` blocks, and the running baseline is the last element decoded; after the last block the
progress is that of the whole decode, whose offset is `RESULT`. -/
def Obligations.RunningBaselineIsThePreviousElement : Prop :=
  (∀ (v : Variant) (s : State) (ch : Nat) (rest : List Input),
    let l := (s.chan ch).latch
    let p := (s.chan ch).prog
    s.inputs = .tick ch :: rest → EncRunning v s ch → p.block + 1 < blockCount l.count v.bs →
    portReads s.port (encIn v l) = true →
    ∃ t, step s = .next t ∧ (t.chan ch).prog.block = p.block + 1 ∧
      (t.chan ch).prog.base = elemAt s.mem l.src.toNat v.size ((p.block + 1) * v.bs - 1)) ∧
  (∀ (v : Variant) (s : State) (ch k : Nat) (rest : List Input) (xs : List Nat) (q : Progress),
    let n := (s.chan ch).latch.count
    s.inputs = List.replicate k (.tick ch) ++ rest → DecRunning v s ch → (s.chan ch).prog = .start →
    decOutcome v { s with cur := ch } = .done xs q false → k ≤ blockCount n v.bs →
    ∃ t, stepN k s = .next t ∧ t.inputs = rest ∧ t.mem = s.mem ∧ (t.chan ch).prog.block = k ∧
      (t.chan ch).prog.elem = min (k * v.bs) n ∧ (0 < k → (t.chan ch).prog.base = xs.getD (min (k * v.bs) n - 1) 0) ∧
      (k = blockCount n v.bs → (t.chan ch).prog = q))

/-- R60, R61, R91: as many inner steps of a running encode as it has blocks (an inner step is a block, log 5), from the
start, bring the stream offset to the length of the stream that the command writes, and the element index to `N`. -/
def Obligations.EncodeProgressReachesTheStream : Prop :=
  ∀ (v : Variant) (s : State) (ch : Nat) (rest : List Input),
    let n := (s.chan ch).latch.count
    s.inputs = List.replicate (blockCount n v.bs) (.tick ch) ++ rest → EncRunning v s ch → (s.chan ch).prog = .start →
    portReads s.port (encIn v (s.chan ch).latch) = true →
    ∃ t, stepN (blockCount n v.bs) s = .next t ∧ t.inputs = rest ∧ t.mem = s.mem ∧
      (t.chan ch).prog.block = blockCount n v.bs ∧ (t.chan ch).prog.elem = n ∧
      (t.chan ch).prog.offset = (encOutput v { s with cur := ch }).length

/-! ### Registers -/

/-- R17: the registers of every channel stand in the window at their offsets. -/
def Obligations.RegisterMapNamesEveryRegister : Prop :=
  ∀ (p : Params) (ch : Nat) (r : Reg), p.Legal → ch < p.nch →
    windowOffset p (p.regBase + slotOffset ch r) = some (0x40 * (ch + 1) + regOffset r) ∧
    slotAt p.nch (0x40 * (ch + 1) + regOffset r) = .chan ch r

/-- R19, R20: what `ID` and the fields of `CAP` read. -/
def Obligations.IdAndCapRead : Prop :=
  ∀ s : State, s.params.Legal →
    s.readReg 0 4 = [0x31, 0x44, 0x50, 0x54] ∧ s.readReg 4 4 = leBytes 4 (capWord s.params).toNat ∧
    (capWord s.params).getLsbD 0 = s.params.hasWide ∧ (capWord s.params).getLsbD 1 = true ∧
    (capWord s.params).extractLsb' 2 2 = 0 ∧ ((capWord s.params).extractLsb' 4 4).toNat = s.params.nch ∧
    (capWord s.params).extractLsb' 8 8 = 32 ∧ (capWord s.params).extractLsb' 16 16 = 0

/-- R21: no command, register write or error changes `CAP`, nor `ID`: no step does. -/
def Obligations.IdAndCapNeverChange : Prop :=
  ∀ s t : State, step s = .next t →
    t.params = s.params ∧ t.readReg 0 4 = s.readReg 0 4 ∧ t.readReg 4 4 = s.readReg 4 4

/-- R18: a 32-bit access at an aligned offset reads the register's value in little-endian order; any other access has no
effect and reads 0 in every byte; and no register access raises an error to the host. -/
def Obligations.RegisterAccessWidths : Prop :=
  ∀ (s : State) (off : Nat) (rest : List Input), off < 4096 →
    (∀ size, s.inputs = .regRead (s.params.regBase + off) size :: rest →
      step s = .next { s with
        inputs := rest,
        busData := if size = 4 ∧ off % 4 = 0 then leBytes 4 (s.readSlot (slotAt s.params.nch off)).toNat
                   else List.replicate size 0 }) ∧
    (∀ data, s.inputs = .regWrite (s.params.regBase + off) data :: rest →
      (¬(data.length = 4 ∧ off % 4 = 0) → step s = .next { s with inputs := rest }) ∧ ∃ t, step s = .next t)

/-- R17, R28: reserved offsets read 0 and ignore writes. -/
def Obligations.ReservedOffsetsReadZeroIgnoreWrites : Prop :=
  ∀ (s : State) (off : Nat) (rest : List Input), off < 4096 → off % 4 = 0 →
    (8 ≤ off ∧ off < 0x40 ∨ 0x40 * (s.params.nch + 1) ≤ off ∨
      0x40 ≤ off ∧ (off % 0x40 = 0x0C ∨ off % 0x40 = 0x38 ∨ off % 0x40 = 0x3C)) →
    s.readReg off 4 = [0, 0, 0, 0] ∧
    ∀ data, s.inputs = .regWrite (s.params.regBase + off) data :: rest → step s = .next { s with inputs := rest }

/-- R23: the fields of `STATUS`, with the reserved bits 3:2 and 31:9 reading 0. -/
def Obligations.StatusFieldsRead : Prop :=
  ∀ c : Chan,
    (statusWord c).getLsbD 0 = decide (c.eng = .busy) ∧ (statusWord c).getLsbD 1 = c.done ∧
    (statusWord c).extractLsb' 2 2 = 0 ∧ (statusWord c).extractLsb' 4 4 = c.err ∧
    (statusWord c).getLsbD 8 = c.dropped ∧ (statusWord c).extractLsb' 9 23 = 0

/-- R104, R22: a host write to `CMD` of any word with bits 3:0 = 0 changes no register and no memory, on a busy channel
too (`DROPPED` is not set). -/
def Obligations.NopWriteChangesNothing : Prop :=
  ∀ (s : State) (ch : Nat) (w : Word) (rest : List Input),
    s.params.Legal → ch < s.params.nch → w.toNat % 16 = 0 → s.inputs = wrReg s.params ch .cmd w :: rest →
    step s = .next { s with inputs := rest, cur := ch }

/-- R22, R29 step 1, R30: an idle channel accepts a word with `OP != 0`: `CMD` holds it, the operands are latched, `BUSY = 1`
and `DONE`, `ERR` and `RESULT` are cleared, in one step; the operand registers and memory stay; of the other channels
nothing changes but the mark of a race (R121). -/
def Obligations.CommandWriteIsAccepted : Prop :=
  ∀ (s : State) (ch : Nat) (w : Word) (rest : List Input),
    s.params.Legal → s.chans.length = s.params.nch → ch < s.params.nch → (s.chan ch).eng = .idle → w.toNat % 16 ≠ 0 →
    s.inputs = wrReg s.params ch .cmd w :: rest →
    ∃ t, step s = .next t ∧ t.mem = s.mem ∧ t.inputs = rest ∧ t.params = s.params ∧ t.port = s.port ∧
      (t.chan ch).cmd = w ∧ (t.chan ch).eng = .busy ∧ (t.chan ch).done = false ∧ (t.chan ch).err = 0 ∧
      (t.chan ch).resultLo = 0 ∧ (t.chan ch).resultHi = 0 ∧
      (t.chan ch).latch.cmd = w ∧ (t.chan ch).latch.len = (s.chan ch).len ∧
      (t.chan ch).latch.src.toNat = (s.chan ch).srcHi.toNat * 2 ^ 32 + (s.chan ch).srcLo.toNat ∧
      (t.chan ch).latch.dst.toNat = (s.chan ch).dstHi.toNat * 2 ^ 32 + (s.chan ch).dstLo.toNat ∧
      (t.chan ch).latch.srcCap.toNat = (s.chan ch).srcCapHi.toNat * 2 ^ 32 + (s.chan ch).srcCapLo.toNat ∧
      (t.chan ch).latch.dstCap.toNat = (s.chan ch).dstCapHi.toNat * 2 ^ 32 + (s.chan ch).dstCapLo.toNat ∧
      (t.chan ch).dropped = (s.chan ch).dropped ∧ (t.chan ch).len = (s.chan ch).len ∧
      (t.chan ch).srcLo = (s.chan ch).srcLo ∧ (t.chan ch).srcHi = (s.chan ch).srcHi ∧
      (t.chan ch).dstLo = (s.chan ch).dstLo ∧ (t.chan ch).dstHi = (s.chan ch).dstHi ∧
      (t.chan ch).srcCapLo = (s.chan ch).srcCapLo ∧ (t.chan ch).srcCapHi = (s.chan ch).srcCapHi ∧
      (t.chan ch).dstCapLo = (s.chan ch).dstCapLo ∧ (t.chan ch).dstCapHi = (s.chan ch).dstCapHi ∧
      ∀ k, k ≠ ch → t.chan k = s.chan k ∨ ((s.chan k).eng = .busy ∧ t.chan k = { s.chan k with raced := true })

/-- R22, R23: a word with `OP != 0` written while `BUSY = 1` is dropped: `DROPPED <- 1` and nothing else changes. -/
def Obligations.CommandWriteWhileBusyIsDropped : Prop :=
  ∀ (s : State) (ch : Nat) (w : Word) (rest : List Input),
    s.params.Legal → ch < s.params.nch → (s.chan ch).eng = .busy → w.toNat % 16 ≠ 0 →
    s.inputs = wrReg s.params ch .cmd w :: rest →
    ∃ t, step s = .next t ∧ t.chan ch = { s.chan ch with dropped := true } ∧ t.mem = s.mem ∧
      OnlyChan { s with inputs := rest } t ch

/-- R23: a host write of `v` to `STATUS` clears `DONE` if `v[1] = 1` and `DROPPED` if `v[8] = 1`; all other bits of `v` are
ignored. -/
def Obligations.StatusWriteClearsDoneAndDropped : Prop :=
  ∀ (s : State) (ch : Nat) (v : Word) (rest : List Input),
    s.params.Legal → s.chans.length = s.params.nch → ch < s.params.nch →
    s.inputs = wrReg s.params ch .status v :: rest →
    ∃ t, step s = .next t ∧ t.mem = s.mem ∧ OnlyChan { s with inputs := rest } t ch ∧
      t.chan ch = { s.chan ch with
        done := if v.getLsbD 1 then false else (s.chan ch).done
        dropped := if v.getLsbD 8 then false else (s.chan ch).dropped }

/-- R24, R25, R26: the operand registers read back as written, but for the address bits at or above `ADDR_WIDTH`, which are
hardwired 0; a write changes nothing else, the channel's hidden state included (R30). -/
def Obligations.OperandRegistersReadBack : Prop :=
  ∀ (s : State) (ch : Nat) (v : Word) (rest : List Input),
    s.params.Legal → s.chans.length = s.params.nch → ch < s.params.nch →
    (∀ r : Reg, r = .len ∨ r = .srcLo ∨ r = .dstLo ∨ r = .srcCapLo ∨ r = .srcCapHi ∨ r = .dstCapLo ∨ r = .dstCapHi →
      s.inputs = wrReg s.params ch r v :: rest →
      ∃ t, step s = .next t ∧ KeepsHidden (s.chan ch) (t.chan ch) ∧ (t.chan ch).read r = v ∧
        (∀ q, q ≠ r → (t.chan ch).read q = (s.chan ch).read q) ∧
        t.mem = s.mem ∧ OnlyChan { s with inputs := rest } t ch) ∧
    (∀ r : Reg, r = .srcHi ∨ r = .dstHi →
      s.inputs = wrReg s.params ch r v :: rest →
      ∃ t, step s = .next t ∧ KeepsHidden (s.chan ch) (t.chan ch) ∧
        ((t.chan ch).read r).toNat = v.toNat % 2 ^ (s.params.addrWidth - 32) ∧
        (∀ q, q ≠ r → (t.chan ch).read q = (s.chan ch).read q) ∧
        t.mem = s.mem ∧ OnlyChan { s with inputs := rest } t ch)

/-- R19, R20, R27: writes to `ID`, `CAP` and `RESULT` are ignored. -/
def Obligations.ReadOnlyRegistersIgnoreWrites : Prop :=
  ∀ (s : State) (rest : List Input), s.params.Legal →
    (∀ data, s.inputs = .regWrite s.params.regBase data :: rest ∨ s.inputs = .regWrite (s.params.regBase + 4) data :: rest →
      step s = .next { s with inputs := rest }) ∧
    (∀ (ch : Nat) (v : Word) (r : Reg), ch < s.params.nch → r = .resultLo ∨ r = .resultHi →
      s.inputs = wrReg s.params ch r v :: rest →
      ∃ t, step s = .next t ∧ t.mem = s.mem ∧ t.chan ch = s.chan ch ∧ OnlyChan { s with inputs := rest } t ch)

/-- R30, R129, R121: whatever a host writes to the register window, a running command keeps its latches, its progress and
its engine state, and its mark of a race (log 8) too, unless the write is that of a command which another, idle channel
accepts, and then the mark can only be set. -/
def Obligations.RegisterWritesLeaveRunningCommand : Prop :=
  ∀ (s t : State) (addr ch : Nat) (data : List Byte) (rest : List Input),
    s.inputs = .regWrite addr data :: rest → (s.chan ch).eng = .busy → step s = .next t →
    (t.chan ch).latch = (s.chan ch).latch ∧ (t.chan ch).prog = (s.chan ch).prog ∧ (t.chan ch).eng = .busy ∧
      (t.chan ch).cmd = (s.chan ch).cmd ∧ t.mem = s.mem ∧
      ((t.chan ch).raced = (s.chan ch).raced ∨
        (t.chan ch).raced = true ∧
          ∃ k, k ≠ ch ∧ k < s.params.nch ∧ (s.chan k).eng = .idle ∧ addr = s.params.regBase + slotOffset k .cmd ∧
            data.length = 4 ∧ opField (wordOfBytes data) ≠ 0)

/-! ### Reset -/

/-- R124: after reset, for all legal build parameters, `ID` and `CAP` read their values, every register of every channel
reads 0, and every engine is idle. -/
def Obligations.ResetValues : Prop :=
  ∀ p : Params, p.Legal →
    (State.resetWith p).params = p ∧ (State.resetWith p).readReg 0 4 = leBytes 4 0x54504431 ∧
    (State.resetWith p).readReg 4 4 = leBytes 4 (capWord p).toNat ∧
    (State.resetWith p).chans.length = p.nch ∧
    ∀ ch, ch < p.nch → ((State.resetWith p).chan ch).eng = .idle ∧
      ∀ r : Reg, (State.resetWith p).readReg (slotOffset ch r) 4 = [0, 0, 0, 0]

/-- R124, R126: a reset changes no byte of memory outside the ranges of R125 and gives every register its reset value. That
the hidden state's reset value is the blank one is the model's choice (log 3), and so is that the platform's answers and the
agenda stay (log 17). -/
def Obligations.ResetChangesOnlyAbandonedRanges : Prop :=
  ∀ (s : State) (rest : List Input), s.inputs = .reset :: rest →
    ∃ t, step s = .next t ∧ t.params = s.params ∧ t.port = s.port ∧ t.inputs = rest ∧
      t.chans = List.replicate s.params.nch Chan.blank ∧
      ∀ a, (∀ c ∈ s.chans, c.eng = .busy → (abandonedRange c.latch).has a = false) → t.mem.get a = s.mem.get a

/-! ### NOP and BOUND -/

/-- R104: NOP runs from every state and changes nothing. -/
def Obligations.NopCompletes : Prop := ∀ (n : Nat) (s : State), exec (.nop n) s = .next s

/-- R107, R95, R54: BOUND completes from every state, whatever `CAP.WIDE` is and whatever its bits 8:6 hold, with
`RESULT = WCB(N)`, `ERR = 0` and no memory access. -/
def Obligations.BoundCompletes : Prop :=
  ∀ (wide w64 : Bool) (attrs : Nat) (s : State), s.cur < s.chans.length →
    ∃ t, exec (.bound wide w64 attrs) s = .next t ∧ CompletedWith s t 0 ∧ t.mem = s.mem ∧ t.draws = s.draws ∧
      t.curChan.result.toNat =
        (let n := s.curChan.latch.len.toNat
         let lanes := if wide then 8 else 4
         let size := if w64 then 8 else 4
         let bs := if wide then 256 else 128
         if n = 0 then 0 else (n + lanes) * size + 3 * ((n + bs - 1) / bs) + 4 * lanes)

/-! ### ENC -/

/-- R105, R40, R94: an encode whose conditions hold completes with `ERR = 0` and `RESULT = |stream|`; each byte of
`[DST, DST + RESULT)` holds the stream byte and every other byte of memory is as before. -/
def Obligations.EncodeCompletes : Prop :=
  ∀ (v : Variant) (s : State),
    EncReady v s → s.curChan.raced = false → s.mem.wf = true → portReads s.port (encIn v s.curChan.latch) = true →
    portWrites s.port { base := s.curChan.latch.dst.toNat, size := (encOutput v s).length } = true →
    ∃ t, exec (.enc v) s = .next t ∧ CompletedWith s t 0 ∧ t.draws = s.draws ∧
      t.curChan.result = BitVec.ofNat 64 (encOutput v s).length ∧
      (∀ i, i < (encOutput v s).length → t.mem.get (s.curChan.latch.dst.toNat + i) = (encOutput v s).getD i 0) ∧
      SameOutside s.mem t.mem { base := s.curChan.latch.dst.toNat, size := (encOutput v s).length }

/-- R103, R54, R110: the pre-checks of an encode, in their order: each ends the command with its code, `RESULT = 0` and no
memory access. -/
def Obligations.EncodePreChecksInOrder : Prop :=
  ∀ (v : Variant) (s : State), s.cur < s.chans.length →
    let p := s.params
    let l := s.curChan.latch
    if v.wide = true ∧ p.hasWide = false then EndsClean (.enc v) s 2
    else if ¬((encIn v l).valid p.addrWidth = true ∧ (encOut l).valid p.addrWidth = true) then EndsClean (.enc v) s 3
    else if l.dstCap.toNat < v.wcb l.len.toNat then EndsClean (.enc v) s 4
    else (encIn v l).meets (encOut l) = true → EndsClean (.enc v) s 5

/-- R111, R114: an encode that meets a bus error ends with `ERR_MEM`, and no byte outside `[DST, DST + WCB(N))` has
changed. -/
def Obligations.EncodeBusErrorEndsWithErrMem : Prop :=
  ∀ (v : Variant) (s : State), EncReady v s → s.curChan.raced = false →
    (portReads s.port (encIn v s.curChan.latch) = false ∨
      portWrites s.port { base := s.curChan.latch.dst.toNat, size := (encOutput v s).length } = false) →
    EndsDirty (.enc v) s 6 (encDirty v s.curChan.latch)

/-- R40: in every case no byte outside `[DST, DST + DST_CAP)` is written by an encode, however it ends. -/
def Obligations.EncodeStaysInCapacity : Prop :=
  ∀ (v : Variant) (s t : State), s.cur < s.chans.length → exec (.enc v) s = .next t →
    SameOutside s.mem t.mem (encOut s.curChan.latch)

/-! ### DEC -/

/-- R106, R40, R101: a decode whose conditions hold and whose stream passes the reader completes with `ERR = 0` and `RESULT`
the bytes consumed; `[DST, DST + N*E)` holds the `N` elements and every other byte of memory is as before. -/
def Obligations.DecodeCompletes : Prop :=
  ∀ (v : Variant) (s : State) (xs : List Nat) (p : Progress),
    DecReady v s → s.curChan.raced = false → s.mem.wf = true → decOutcome v s = .done xs p false →
    portWrites s.port (decOut v s.curChan.latch) = true →
    xs.length = s.curChan.latch.count ∧ Fits v xs ∧
    ∃ t, exec (.dec v) s = .next t ∧ CompletedWith s t 0 ∧ t.draws = s.draws ∧
      t.curChan.result = BitVec.ofNat 64 p.offset ∧
      (∀ g, g < xs.length → elemAt t.mem s.curChan.latch.dst.toNat v.size g = xs.getD g 0) ∧
      SameOutside s.mem t.mem (decOut v s.curChan.latch)

/-- R103, R54, R110: the pre-checks of a decode, in their order. -/
def Obligations.DecodePreChecksInOrder : Prop :=
  ∀ (v : Variant) (s : State), s.cur < s.chans.length →
    let p := s.params
    let l := s.curChan.latch
    if v.wide = true ∧ p.hasWide = false then EndsClean (.dec v) s 2
    else if ¬((decIn l).valid p.addrWidth = true ∧ (decOut v l).valid p.addrWidth = true) then EndsClean (.dec v) s 3
    else if l.dstCap.toNat < l.len.toNat * v.size then EndsClean (.dec v) s 4
    else (decIn l).meets (decOut v l) = true → EndsClean (.dec v) s 5

/-- R112, R114: a malformed stream, where no bus error could arise (when that is so: log 7), ends the decode with
`ERR_MALFORMED`, and no byte outside `[DST, DST + N*E)` has changed. -/
def Obligations.DecodeMalformedEndsWithErrMalformed : Prop :=
  ∀ (v : Variant) (s : State) (p : Progress), DecReady v s → s.curChan.raced = false →
    decOutcome v s = .malformed p false →
    portWrites s.port { base := s.curChan.latch.dst.toNat, size := p.known v * v.size } = true →
    EndsDirty (.dec v) s 7 (decOut v s.curChan.latch)

/-- R111, R113, R114: a decode that meets a bus error ends with `ERR_MEM`, or, where a malformation could arise as well
(when that is so: log 7), with either code. -/
def Obligations.DecodeBusErrorEndsWithErrMem : Prop :=
  ∀ (v : Variant) (s : State) (xs : List Nat) (p : Progress), DecReady v s → s.curChan.raced = false →
    (decOutcome v s = .busError p ∨ decOutcome v s = .done xs p true ∨
        (decOutcome v s = .done xs p false ∧ portWrites s.port (decOut v s.curChan.latch) = false) →
      EndsDirty (.dec v) s 6 (decOut v s.curChan.latch)) ∧
    (decOutcome v s = .malformed p true ∨
        (decOutcome v s = .malformed p false ∧
          portWrites s.port { base := s.curChan.latch.dst.toNat, size := p.known v * v.size } = false) →
      EndsDirty (.dec v) s 6 (decOut v s.curChan.latch) ∨ EndsDirty (.dec v) s 7 (decOut v s.curChan.latch))

/-- R40, R112: however a decode ends, on a corrupt stream or after a race too, no byte outside `[DST, DST + N*E)` is
written, and the code is one of R110. -/
def Obligations.DecodeNeverWritesOutsideItsOutput : Prop :=
  ∀ (v : Variant) (s t : State), s.cur < s.chans.length → exec (.dec v) s = .next t →
    SameOutside s.mem t.mem (decOut v s.curChan.latch) ∧ ∃ e : BitVec 4, e.toNat ≤ 7 ∧ CompletedWith s t e

/-! ### All commands -/

/-- R38, I14: an encode or a decode whose pre-checks pass and one of whose buffers covers a device register is refused by
name; nothing of it is performed. -/
def Obligations.DeviceBuffersAreRefused : Prop :=
  ∀ (v : Variant) (s : State),
    (precheckEnc s.params v s.curChan.latch = none →
      onDevice s.port (encIn v s.curChan.latch) = true ∨ onDevice s.port (encOut s.curChan.latch) = true →
      exec (.enc v) s = .refused .deviceBuffer) ∧
    (precheckDec s.params v s.curChan.latch = none →
      onDevice s.port (decIn s.curChan.latch) = true ∨ onDevice s.port (decOut v s.curChan.latch) = true →
      exec (.dec v) s = .refused .deviceBuffer)

/-- R110, R115: no command faults; the only refusal is that of a device buffer, by ENC and DEC; so over ordinary memory
every one of the 69 commands answers a next state, from every state. -/
def Obligations.CommandsStopOnlyOnDeviceBuffers : Prop :=
  ∀ (i : Instr) (s : State),
    (∀ f, exec i s ≠ .fault f) ∧
    (∀ r, exec i s = .refused r →
      r = .deviceBuffer ∧ (∃ v, i = .enc v ∨ i = .dec v) ∧ ∃ g ∈ s.port, g.device = true) ∧
    ((∀ g ∈ s.port, g.device = false) → ∃ t, exec i s = .next t)

/-- R121: no command reads or changes another channel's registers or state, nor the platform's. -/
def Obligations.CommandsLeaveOtherChannels : Prop :=
  ∀ (i : Instr) (s t : State), exec i s = .next t → OnlyChan s t s.cur

/-- R66: "The signedness field `S` changes no computation of the TPDC": not the deltas, their inverse, the selected
widths, a stream byte, or what a command does. -/
def Obligations.SignednessChangesNothing : Prop :=
  ∀ (v : Variant) (sgn : Bool),
    (∀ xs, deltas { v with signed := sgn } xs = deltas v xs ∧ stream { v with signed := sgn } xs = stream v xs) ∧
    (∀ k base vals, undeltaBlock { v with signed := sgn } k base vals = undeltaBlock v k base vals ∧
      selectB vals ({ v with signed := sgn } : Variant).width = selectB vals v.width) ∧
    (∀ buf n, decodeStream { v with signed := sgn } buf n = decodeStream v buf n) ∧
    ∀ s, exec (.enc { v with signed := sgn }) s = exec (.enc v) s ∧ exec (.dec { v with signed := sgn }) s = exec (.dec v) s

/-- R44: a command whose ranges met another agent's write (the mark `raced`, log 8) ends with some code of R110, and even
then writes nothing outside its write range. -/
def Obligations.RacedCommandStaysInItsRange : Prop :=
  ∀ (v : Variant) (s : State), s.curChan.raced = true →
    (EncReady v s → ∃ e : BitVec 4, e.toNat ≤ 7 ∧ EndsDirty (.enc v) s e (encDirty v s.curChan.latch)) ∧
    (DecReady v s → ∃ e : BitVec 4, e.toNat ≤ 7 ∧ EndsDirty (.dec v) s e (decOut v s.curChan.latch))

/-- R109: for a command that completes without `ERR_MEM`, the latched operands, the parameters and the bytes of the input
range determine `ERR`, `RESULT` (but after `ERR_MALFORMED`, where it is unspecified) and, at `ERR = 0`, the output bytes. -/
def Obligations.CommandsAreDeterministic : Prop :=
  ∀ (v : Variant) (s1 s2 t1 t2 : State),
    s1.cur < s1.chans.length → s2.cur < s2.chans.length → s1.mem.wf = true → s2.mem.wf = true →
    s1.params = s2.params → s1.port = s2.port → s1.curChan.latch = s2.curChan.latch →
    s1.curChan.raced = false → s2.curChan.raced = false →
    ((∀ a, (encIn v s1.curChan.latch).has a = true → s1.mem.get a = s2.mem.get a) →
      exec (.enc v) s1 = .next t1 → exec (.enc v) s2 = .next t2 → t1.curChan.err ≠ 6 →
      t1.curChan.err = t2.curChan.err ∧ t1.curChan.result = t2.curChan.result ∧
      (t1.curChan.err = 0 → ∀ i, i < (encOutput v s1).length →
        t1.mem.get (s1.curChan.latch.dst.toNat + i) = t2.mem.get (s1.curChan.latch.dst.toNat + i))) ∧
    ((∀ a, (decIn s1.curChan.latch).has a = true → s1.mem.get a = s2.mem.get a) →
      exec (.dec v) s1 = .next t1 → exec (.dec v) s2 = .next t2 → t1.curChan.err ≠ 6 → t2.curChan.err ≠ 6 →
      t1.curChan.err = t2.curChan.err ∧ (t1.curChan.err ≠ 7 → t1.curChan.result = t2.curChan.result) ∧
      (t1.curChan.err = 0 → ∀ a, (decOut v s1.curChan.latch).has a = true → t1.mem.get a = t2.mem.get a))

/-- R57, R116: `WAIT` reads `STATUS`: on an idle channel that is all it does; on a busy one the engine's run and another
round of the loop come next (the order is the model's schedule, log 4). -/
def Obligations.WaitReadsStatus : Prop :=
  ∀ (s : State) (ch : Nat) (rest : List Input), s.params.Legal → ch < s.params.nch → s.inputs = .wait ch :: rest →
    let bytes := leBytes 4 (statusWord (s.chan ch)).toNat
    ((s.chan ch).eng = .idle → step s = .next { s with inputs := rest, busData := bytes }) ∧
    ((s.chan ch).eng = .busy →
      step s = .next { s with inputs := .engine ch :: .wait ch :: rest, busData := bytes })

/-! ### The hosts' memory -/

/-- R43, R44: a host read of memory returns the byte that stands there wherever no busy command may write, and changes
neither memory nor any channel. -/
def Obligations.HostReadsSettledMemory : Prop :=
  ∀ (s : State) (addr size : Nat) (rest : List Input), s.inputs = .memRead addr size :: rest →
    size = 0 ∨ addr + size ≤ 2 ^ s.params.addrWidth → onDevice s.port { base := addr, size := size } = false →
    ∃ t, step s = .next t ∧ t.mem = s.mem ∧ t.chans = s.chans ∧ t.busData.length = size ∧
      ∀ i, i < size →
        (∀ c ∈ s.chans, c.eng = .busy → (abandonedRange c.latch).has (addr + i) = false) →
        t.busData.getD i 0 = s.mem.get (addr + i)

/-- R44: a host write stores its bytes and nothing else; the running commands whose ranges it meets are the ones that are
marked as raced (what their ranges are: logs 8 and 9). -/
def Obligations.HostWriteMarksRaces : Prop :=
  ∀ (s : State) (addr : Nat) (data : List Byte) (rest : List Input), s.mem.wf = true →
    s.inputs = .memWrite addr data :: rest →
    data.length = 0 ∨ addr + data.length ≤ 2 ^ s.params.addrWidth →
    onDevice s.port { base := addr, size := data.length } = false →
    ∃ t, step s = .next t ∧ (∀ i, i < data.length → t.mem.get (addr + i) = data.getD i 0) ∧
      SameOutside s.mem t.mem { base := addr, size := data.length } ∧
      ∀ k, k < s.chans.length →
        t.chan k =
          if (s.chan k).eng = .busy ∧ hits s { base := addr, size := data.length } (s.chan k).latch = true then
            { s.chan k with raced := true }
          else s.chan k

/-! ### The functional units -/

/-- R64: undoing the deltas of a sequence, block by block with the running baseline carried, gives the sequence back, for
every input. -/
def Obligations.DeltaLayerIsLossless : Prop :=
  ∀ (v : Variant) (xs : List Nat), Fits v xs →
    undeltaBlocks v 0 (xs.headD 0) (cut v.bs (blockCount xs.length v.bs) (deltas v xs)) = xs

/-- R65: on input monotone in the declared direction, as integers of the declared signedness, with every step at least
`D1`, the slot value is the absolute difference less `D1`, with no wrap. -/
def Obligations.MonotoneDeltasDoNotWrap : Prop :=
  ∀ (v : Variant) (prev cur : Nat), prev < 2 ^ v.width → cur < 2 ^ v.width →
    (match v.dir with
      | .up => reading v prev + v.step ≤ reading v cur
      | .dn => reading v cur ≤ reading v prev - v.step) →
    (deltaOf v prev cur : Int) = |reading v cur - reading v prev| - v.step

/-- R69, R71: the selected width is at most `W`, keeps the exception budget `floor(c/32)`, and no smaller width does. -/
def Obligations.SelectedWidthIsTheSmallest : Prop :=
  ∀ (vals : List Nat) (w : Nat), (∀ x ∈ vals, x < 2 ^ w) →
    selectB vals w ≤ w ∧
    vals.countP (fun x => decide (2 ^ selectB vals w ≤ x)) ≤ vals.length / 32 ∧
    ∀ b, b < selectB vals w → vals.length / 32 < vals.countP (fun x => decide (2 ^ b ≤ x))

/-- R73: the exception set holds exactly the slots whose value is at least `2^b`, in increasing order, each with its high
part, which is at least 1; there are at most `floor(c/32)` of them, so at most 8 in a block; the low parts are the values
modulo `2^b`. -/
def Obligations.ExceptionSetOfABlock : Prop :=
  ∀ (vals : List Nat) (w : Nat), (∀ x ∈ vals, x < 2 ^ w) →
    let b := selectB vals w
    (∀ j h, (j, h) ∈ exceptions vals b ↔ j < vals.length ∧ 2 ^ b ≤ vals.getD j 0 ∧ h = vals.getD j 0 / 2 ^ b) ∧
    (∀ e ∈ exceptions vals b, 1 ≤ e.2) ∧ ((exceptions vals b).map Prod.fst).Pairwise (· < ·) ∧
    (exceptions vals b).length ≤ vals.length / 32 ∧ (vals.length ≤ 256 → (exceptions vals b).length ≤ 8) ∧
    ∀ j, j < vals.length → (lowParts vals b).getD j 0 = vals.getD j 0 % 2 ^ b

/-- R78: the payload has exactly `4*L*P` bytes; that of a full block has `4*L*b`; at `b = 0` it is empty. -/
def Obligations.PayloadSizeOfABlock : Prop :=
  ∀ (lo : List Nat) (b lanes : Nat), 0 < lanes →
    (pack lo b lanes).length = 4 * lanes * ((((lo.length + lanes - 1) / lanes) * b + 31) / 32) ∧
    (lo.length = 32 * lanes → (pack lo b lanes).length = 4 * lanes * b) ∧ (b = 0 → pack lo b lanes = [])

/-- R83: "`unpack(pack(lo, b, L), b, L, c) = lo` for every `c` in `1..BS`, every `b` in `0..W` and all `lo[j] < 2^b`." -/
def Obligations.UnpackInvertsPack : Prop :=
  ∀ (lo : List Nat) (b lanes : Nat), 0 < lanes → (∀ x ∈ lo, x < 2 ^ b) →
    unpack (pack lo b lanes) b lanes lo.length = lo

/-- R90: for every block the encoder writes, applying the exception list to the unpacked low parts restores the values; a
block without a list has only values below `2^b`, and the unpacked low parts are the values. -/
def Obligations.PatchesRestoreTheValues : Prop :=
  ∀ (v : Variant) (vals : List Nat) (buf : InBuf) (cur : Cursor), Fits v vals → vals.length ≤ v.bs →
    let b := selectB vals v.width
    let unpacked := unpack (pack (lowParts vals b) b v.lanes) b v.lanes vals.length
    (exceptions vals b = [] → unpacked = vals) ∧
    (exceptions vals b ≠ [] → Holds buf cur.pos (patchEncode vals b v.width) →
      decodeExceptions buf v.width b vals.length unpacked cur =
        .ok vals { cur with pos := cur.pos + (patchEncode vals b v.width).length })

/-- R93, R98, R100: the decoder reads back the values of every block the encoder writes, and its cursor moves past the
block. -/
def Obligations.DecodedBlockIsTheEncodedBlock : Prop :=
  ∀ (v : Variant) (vals : List Nat) (buf : InBuf) (cur : Cursor), Fits v vals → vals.length ≤ v.bs →
    Holds buf cur.pos (encodeBlock v vals) →
    ∃ scratch, decodeBlock v buf vals.length cur =
      .ok (vals, scratch) { cur with pos := cur.pos + (encodeBlock v vals).length }

/-- R91, R101, R102: decoding the stream of a sequence, with the same variant and count, gives the sequence and consumes
exactly the stream. -/
def Obligations.StreamRoundTrip : Prop :=
  ∀ (v : Variant) (xs : List Nat) (buf : InBuf), Fits v xs → Holds buf 0 (stream v xs) →
    ∃ p, decodeStream v buf xs.length = .done xs p false ∧ p.offset = (stream v xs).length

/-- R102: for every variant, every `N` and every input, decoding the stream that ENC writes, with the same variant, the same
`N` and `SRC_CAP >= |stream|`, returns the input with `RESULT = |stream|` and no error. Here `s` is a state in which the
encode runs, `u` one in which the decode runs on the bytes the encode left. -/
def Obligations.DecodeRestoresWhatEncodeRead : Prop :=
  ∀ (v : Variant) (s t u : State),
    EncReady v s → s.curChan.raced = false → s.mem.wf = true → portReads s.port (encIn v s.curChan.latch) = true →
    portWrites s.port { base := s.curChan.latch.dst.toNat, size := (encOutput v s).length } = true →
    exec (.enc v) s = .next t →
    DecReady v u → u.curChan.raced = false → u.mem = t.mem →
    u.curChan.latch.src = s.curChan.latch.dst → u.curChan.latch.count = s.curChan.latch.count →
    (encOutput v s).length ≤ u.curChan.latch.srcCap.toNat →
    portReads u.port { base := u.curChan.latch.src.toNat, size := (encOutput v s).length } = true →
    portWrites u.port (decOut v u.curChan.latch) = true →
    ∃ w, exec (.dec v) u = .next w ∧ CompletedWith u w 0 ∧ w.curChan.result = t.curChan.result ∧
      ∀ g, g < s.curChan.latch.count →
        elemAt w.mem u.curChan.latch.dst.toNat v.size g = elemAt s.mem s.curChan.latch.src.toNat v.size g

/-- R96: "Every stream the encoder produces has `|stream| <= WCB(N)`." -/
def Obligations.StreamFitsTheWorstCaseBound : Prop :=
  ∀ (v : Variant) (xs : List Nat), Fits v xs → (stream v xs).length ≤ v.wcb xs.length

/-- R39, R97, R112: the reader never passes the limit `SRC_CAP`, and nothing at or past where it stops has any influence on
what it answers. -/
def Obligations.ReaderNeverPassesItsLimit : Prop :=
  ∀ (v : Variant) (buf : InBuf) (n : Nat) (m : Memory),
    (decodeStream v buf n).prog.offset ≤ buf.lim ∧
    ((∀ a, buf.base ≤ a → a < buf.base + (decodeStream v buf n).prog.offset → m.get a = buf.mem.get a) →
      decodeStream v { buf with mem := m } n = decodeStream v buf n)
end

