-- ==== Sys2Proof/Laws/Bytes.lean ====
section
/-! SUPPORT. Byte strings: lengths, and that `fromLE` inverts `LE_n` (R11). -/

namespace Sys2Proof

@[simp] theorem leBytes_length (n v : Nat) : (leBytes n v).length = n := by
  induction n generalizing v with
  | zero => rfl
  | succ n ih => simp [leBytes, ih]

/-- `fromLE(LE_n(v)) = v mod 2^(8n)` (R11). -/
theorem fromLE_leBytes (n v : Nat) : fromLE (leBytes n v) = v % 256 ^ n := by
  induction n generalizing v with
  | zero => simp [leBytes, fromLE, Nat.mod_one]
  | succ n ih =>
    rw [leBytes, fromLE, ih, BitVec.toNat_ofNat]
    have h : v % (256 * 256 ^ n) = v % 256 + 256 * (v / 256 % 256 ^ n) := Nat.mod_mul
    rw [pow_succ' 256 n, h]

/-- A value that fits `n` bytes is read back. -/
theorem fromLE_leBytes_of_lt (n v : Nat) (h : v < 256 ^ n) : fromLE (leBytes n v) = v := by
  rw [fromLE_leBytes, Nat.mod_eq_of_lt h]

/-- The value of a byte string fits its length. -/
theorem fromLE_lt (bs : List Byte) : fromLE bs < 256 ^ bs.length := by
  induction bs with
  | nil => simp [fromLE]
  | cons b bs ih =>
    simp only [fromLE, List.length_cons, pow_succ']
    have := b.isLt
    omega

@[simp] theorem slice_length (s : List Byte) (a n : Nat) : (slice s a n).length = min n (s.length - a) := by
  simp [slice]

namespace Machine

@[simp] theorem elemBytes_length (size : Nat) (xs : List Nat) : (elemBytes size xs).length = xs.length * size := by
  induction xs with
  | nil => simp [elemBytes]
  | cons x xs ih => simp only [elemBytes, List.flatMap_cons, List.length_append, leBytes_length, List.length_cons] at *
                    rw [ih]; ring

@[simp] theorem elemsAt_length (m : Memory) (a size i n : Nat) : (elemsAt m a size i n).length = n := by
  simp [elemsAt]

@[simp] theorem lowParts_length (vals : List Nat) (b : Nat) : (lowParts vals b).length = vals.length := by
  simp [lowParts]

end Machine

end Sys2Proof
end

