-- ==== Sys2Proof/Laws/Encoding.lean ====
section
/-! SUPPORT. The fields of a command word as numbers, the kinds of the commands of a variant, and `exec` as the run of the
command's kind. -/

namespace Sys2Proof

/-- `OP` as a number (R50). -/
theorem opField_toNat (w : Word) : (opField w).toNat = w.toNat % 16 := by simp [opField]

/-- The reserved field as a number (R50). -/
theorem reservedField_toNat (w : Word) : (reservedField w).toNat = w.toNat / 512 := by
  simp only [reservedField, BitVec.extractLsb'_toNat, Nat.shiftRight_eq_div_pow]
  omega

theorem opField_eq_iff (w : Word) (k : BitVec 4) : opField w = k ↔ w.toNat % 16 = k.toNat := by
  rw [← opField_toNat]
  exact ⟨fun h => by rw [h], BitVec.eq_of_toNat_eq⟩

theorem opField_eq_zero_iff (w : Word) : opField w = 0 ↔ w.toNat % 16 = 0 := opField_eq_iff w 0

theorem reservedField_eq_zero_iff (w : Word) : reservedField w = 0 ↔ w.toNat / 512 = 0 := by
  rw [← reservedField_toNat]
  exact ⟨fun h => by rw [h]; rfl, fun h => BitVec.eq_of_toNat_eq h⟩

/-- A bit of a word as a number. -/
theorem getLsbD_toNat (w : Word) (k : Nat) : (w.getLsbD k).toNat = w.toNat / 2 ^ k % 2 := by
  rw [BitVec.getLsbD, Nat.testBit_eq_decide_div_mod_eq]
  rcases Nat.mod_two_eq_zero_or_one (w.toNat / 2 ^ k) with h | h <;> simp [h]

/-- A word decodes to a NOP exactly when its `OP` is 0 (R52, R53). -/
theorem decodeCmd_of_op_zero (w : Word) (h : opField w = 0) :
    decodeCmd w = .ok (.nop (w.extractLsb' 4 28).toNat) := by simp [decodeCmd, h]

@[simp] theorem kind_enc (v : Variant) : (Instr.enc v).kind = .enc v := by
  rcases v with ⟨a, b, c, d, e⟩
  cases a <;> cases b <;> cases c <;> cases d <;> cases e <;> rfl

@[simp] theorem kind_dec (v : Variant) : (Instr.dec v).kind = .dec v := by
  rcases v with ⟨a, b, c, d, e⟩
  cases a <;> cases b <;> cases c <;> cases d <;> cases e <;> rfl

@[simp] theorem kind_bound (wide w64 : Bool) (a : Nat) : (Instr.bound wide w64 a).kind = .bound wide w64 a := by
  cases wide <;> cases w64 <;> rfl

@[simp] theorem wf_enc (v : Variant) : (Instr.enc v).wf = true := by
  rcases v with ⟨a, b, c, d, e⟩
  cases a <;> cases b <;> cases c <;> cases d <;> cases e <;> rfl

@[simp] theorem wf_dec (v : Variant) : (Instr.dec v).wf = true := by
  rcases v with ⟨a, b, c, d, e⟩
  cases a <;> cases b <;> cases c <;> cases d <;> cases e <;> rfl

/-- A word whose `OP` is not 0 does not decode to a NOP (R52). -/
theorem decodeCmd_ne_nop (w : Word) (n : Nat) (h : opField w ≠ 0) : decodeCmd w ≠ .ok (.nop n) := by
  intro hd
  simp only [decodeCmd, h, if_false] at hd
  split at hd
  · cases hd
  · split at hd
    · cases hd
    · split at hd
      · injection hd with hd
        have := congrArg Instr.kind hd
        rw [kind_enc] at this
        cases this
      · split at hd
        · injection hd with hd
          have := congrArg Instr.kind hd
          rw [kind_dec] at this
          cases this
        · injection hd with hd
          have := congrArg Instr.kind hd
          rw [kind_bound] at this
          cases this

namespace Machine

/-- A command runs as its kind says. -/
theorem exec_eq_kind (i : Instr) (s : State) :
    exec i s = match i.kind with
      | .nop _ => .next s
      | .enc v => runEnc v s
      | .dec v => runDec v s
      | .bound wide w64 _ => runBound wide w64 s := by
  cases i <;> rfl

theorem exec_enc (v : Variant) (s : State) : exec (.enc v) s = runEnc v s := by rw [exec_eq_kind, kind_enc]

theorem exec_dec (v : Variant) (s : State) : exec (.dec v) s = runDec v s := by rw [exec_eq_kind, kind_dec]

theorem exec_bound (wide w64 : Bool) (a : Nat) (s : State) : exec (.bound wide w64 a) s = runBound wide w64 s := by
  rw [exec_eq_kind, kind_bound]

end Machine

end Sys2Proof
end

