-- ==== Sys2Proof/Laws/Memory.lean ====
section
/-! SUPPORT. The laws of memory: every operation keeps the canonical form, a read after a write gives the bytes written,
and a write leaves every other byte alone. -/

namespace Sys2Proof.Machine

/-- Every address of a memory is above `a`. -/
def Memory.above (a : Nat) (m : Memory) : Prop := ∀ x ∈ m, a < x.1

/-- The canonical form, entry by entry. -/
theorem wf_cons (a : Nat) (b : Byte) (m : Memory) :
    Memory.wf ((a, b) :: m) = true ↔ b ≠ blankByte ∧ Memory.above a m ∧ Memory.wf m = true := by
  induction m generalizing a b with
  | nil => simp [Memory.wf, Memory.above]
  | cons x rest ih =>
    obtain ⟨c, d⟩ := x
    have h := ih c d
    simp only [Memory.wf, Bool.and_eq_true, decide_eq_true_eq, and_assoc]
    constructor
    · rintro ⟨hb, hac, hw⟩
      refine ⟨hb, ?_, hw⟩
      have hc := (h.1 hw).2.1
      intro y hy
      rcases List.mem_cons.1 hy with rfl | hy
      · exact hac
      · exact lt_trans hac (hc y hy)
    · rintro ⟨hb, hab, hw⟩
      exact ⟨hb, hab (c, d) (by simp), hw⟩

/-- A byte that is not listed is blank. -/
theorem get_of_above (m : Memory) (a : Nat) (h : Memory.above a m) : m.get a = blankByte := by
  induction m with
  | nil => rfl
  | cons x rest ih =>
    obtain ⟨c, d⟩ := x
    have hc : a < c := h (c, d) (by simp)
    have hr : Memory.above a rest := fun y hy => h y (by simp [hy])
    simp only [Memory.get]
    rw [if_neg (by omega), ih hr]

/-- Writing a byte leaves the addresses above what they were, or the one written. -/
theorem above_set (m : Memory) (x a : Nat) (b : Byte) (h : Memory.above x m) (hx : x < a) :
    Memory.above x (m.set a b) := by
  induction m with
  | nil =>
    intro y hy
    simp only [Memory.set] at hy
    split at hy <;> simp_all
  | cons z rest ih =>
    obtain ⟨c, d⟩ := z
    have hr : Memory.above x rest := fun y hy => h y (by simp [hy])
    have hc : x < c := h (c, d) (by simp)
    intro y hy
    simp only [Memory.set] at hy
    split at hy
    · split at hy
      · exact h y hy
      · rcases List.mem_cons.1 hy with rfl | hy
        · exact hx
        · exact h y hy
    · split at hy
      · split at hy
        · exact hr y hy
        · rcases List.mem_cons.1 hy with rfl | hy
          · exact hx
          · exact hr y hy
      · rcases List.mem_cons.1 hy with rfl | hy
        · exact hc
        · exact ih hr y hy

/-- Writing a byte keeps the canonical form. -/
theorem set_wf (m : Memory) (a : Nat) (b : Byte) (h : m.wf = true) : (m.set a b).wf = true := by
  induction m with
  | nil =>
    simp only [Memory.set]
    split
    · rfl
    · rename_i hb; simpa [Memory.wf] using hb
  | cons z rest ih =>
    obtain ⟨c, d⟩ := z
    obtain ⟨hd, hab, hw⟩ := (wf_cons c d rest).1 h
    simp only [Memory.set]
    split
    · rename_i hac
      split
      · exact h
      · rename_i hb
        refine (wf_cons _ _ _).2 ⟨hb, ?_, h⟩
        intro y hy
        rcases List.mem_cons.1 hy with rfl | hy
        · exact hac
        · exact lt_trans hac (hab y hy)
    · rename_i hac
      split
      · rename_i heq
        subst heq
        split
        · exact hw
        · rename_i hb
          exact (wf_cons _ _ _).2 ⟨hb, hab, hw⟩
      · rename_i hne
        exact (wf_cons _ _ _).2 ⟨hd, above_set rest c a b hab (by omega), ih hw⟩

/-- Writing a string of bytes keeps the canonical form. -/
theorem write_wf (m : Memory) (a : Nat) (bs : List Byte) (h : m.wf = true) : (m.write a bs).wf = true := by
  induction bs generalizing m a with
  | nil => exact h
  | cons b bs ih => exact ih (m.set a b) (a + 1) (set_wf m a b h)

/-- The byte written is read back. -/
theorem get_set_self (m : Memory) (a : Nat) (b : Byte) (h : m.wf = true) : (m.set a b).get a = b := by
  induction m with
  | nil =>
    simp only [Memory.set]
    split
    · rename_i hb; simp [Memory.get, hb]
    · simp [Memory.get]
  | cons z rest ih =>
    obtain ⟨c, d⟩ := z
    obtain ⟨_, hab, hw⟩ := (wf_cons c d rest).1 h
    simp only [Memory.set]
    split
    · rename_i hac
      split
      · rename_i hb
        rw [hb]
        refine get_of_above _ a ?_
        intro y hy
        rcases List.mem_cons.1 hy with rfl | hy
        · exact hac
        · exact lt_trans hac (hab y hy)
      · simp [Memory.get]
    · split
      · rename_i heq
        subst heq
        split
        · rename_i hb
          rw [hb]
          exact get_of_above _ a hab
        · simp [Memory.get]
      · rename_i hne
        simp only [Memory.get]
        rw [if_neg (by omega)]
        exact ih hw

/-- Writing one byte leaves every other alone, in any memory. -/
theorem get_set_ne (m : Memory) (a x : Nat) (b : Byte) (h : x ≠ a) : (m.set a b).get x = m.get x := by
  induction m with
  | nil =>
    simp only [Memory.set]
    split
    · rfl
    · simp [Memory.get, Ne.symm h]
  | cons z rest ih =>
    obtain ⟨c, d⟩ := z
    simp only [Memory.set]
    split
    · split
      · rfl
      · simp [Memory.get, Ne.symm h]
    · split
      · rename_i heq
        subst heq
        split
        · simp [Memory.get, Ne.symm h]
        · simp [Memory.get, Ne.symm h]
      · simp only [Memory.get, ih]

/-- A write leaves every byte outside it alone, in any memory. -/
theorem get_write_outside (m : Memory) (a x : Nat) (bs : List Byte) (h : x < a ∨ a + bs.length ≤ x) :
    (m.write a bs).get x = m.get x := by
  induction bs generalizing m a with
  | nil => rfl
  | cons b bs ih =>
    simp only [List.length_cons] at h
    simp only [Memory.write]
    rw [ih (m.set a b) (a + 1) (by omega), get_set_ne m a x b (by omega)]

/-- A write leaves every byte outside its range alone. -/
theorem write_sameOutside (m : Memory) (r : Range) (bs : List Byte) (h : bs.length ≤ r.size) :
    SameOutside m (m.write r.base bs) r := by
  intro a ha
  refine get_write_outside m r.base a bs ?_
  simp only [Range.has, decide_eq_false_iff_not, not_and, not_lt] at ha
  omega

/-- The bytes written are read back, one by one. -/
theorem get_write_inside (m : Memory) (a i : Nat) (bs : List Byte) (h : m.wf = true) (hi : i < bs.length) :
    (m.write a bs).get (a + i) = bs.getD i 0 := by
  induction bs generalizing m a i with
  | nil => simp at hi
  | cons b bs ih =>
    simp only [Memory.write]
    cases i with
    | zero =>
      rw [get_write_outside _ _ _ _ (by omega)]
      simpa using get_set_self m a b h
    | succ i =>
      have := ih (m.set a b) (a + 1) i (set_wf m a b h) (by simpa using hi)
      rw [show a + (i + 1) = a + 1 + i by omega, this]
      simp

@[simp] theorem read_length (m : Memory) (a n : Nat) : (m.read a n).length = n := by
  induction n generalizing a with
  | zero => rfl
  | succ n ih => simp [Memory.read, ih]

/-- A read is its bytes, one by one. -/
theorem read_getD (m : Memory) (a n i : Nat) (h : i < n) : (m.read a n).getD i 0 = m.get (a + i) := by
  induction n generalizing a i with
  | zero => omega
  | succ n ih =>
    cases i with
    | zero => simp [Memory.read]
    | succ i =>
      simp only [Memory.read, List.getD_cons_succ]
      rw [ih (a + 1) i (by omega), show a + 1 + i = a + (i + 1) by omega]

/-- A read depends on its own bytes only. -/
theorem read_congr (m k : Memory) (a n : Nat) (h : ∀ x, a ≤ x → x < a + n → m.get x = k.get x) :
    m.read a n = k.read a n := by
  induction n generalizing a with
  | zero => rfl
  | succ n ih =>
    simp only [Memory.read]
    rw [h a (le_refl a) (by omega), ih (a + 1) (fun x h1 h2 => h x (by omega) (by omega))]

/-- A read of what was written gives the bytes written. -/
theorem read_write (m : Memory) (a : Nat) (bs : List Byte) (h : m.wf = true) :
    (m.write a bs).read a bs.length = bs := by
  induction bs generalizing m a with
  | nil => rfl
  | cons b bs ih =>
    simp only [List.length_cons, Memory.read, Memory.write]
    rw [get_write_outside _ _ _ _ (by omega), get_set_self m a b h, ih (m.set a b) (a + 1) (set_wf m a b h)]

/-- A read in two parts. -/
theorem read_append (m : Memory) (a n k : Nat) : m.read a (n + k) = m.read a n ++ m.read (a + n) k := by
  induction n generalizing a with
  | zero => simp [Memory.read]
  | succ n ih =>
    rw [show n + 1 + k = (n + k) + 1 by omega]
    simp only [Memory.read, List.cons_append, ih (a + 1)]
    rw [show a + 1 + n = a + (n + 1) by omega]

@[simp] theorem freeBytes_length (s : State) (n : Nat) : (s.freeBytes n).length = n := by simp [State.freeBytes]

end Sys2Proof.Machine
end

