-- ==== Sys2Proof/Laws/Framing.lean ====
section
/-! SUPPORT. The stream reader: how many elements it gives, that they fit, and what a step of it does to the progress. -/

namespace Sys2Proof.Machine

/-- The inverse deltas keep the length. -/
theorem undeltasFrom_length (v p ds) : (undeltasFrom v p ds).length = ds.length := by
  induction ds generalizing p with
  | nil => rfl
  | cons d ds ih => simp [undeltasFrom, ih]

/-- The inverse deltas of a block keep the length. -/
theorem undeltaBlock_length (v k b vals) : (undeltaBlock v k b vals).length = vals.length := by
  unfold undeltaBlock
  split
  · split
    · rfl
    · simp [undeltasFrom_length]
  · simp [undeltasFrom_length]

/-- A residue is below its modulus. -/
theorem residue_lt (w a) : residue w a < 2 ^ w := by
  unfold residue
  have : (0:Int) < 2 ^ w := by positivity
  have h1 := Int.emod_nonneg a this.ne'
  have h2 := Int.emod_lt_of_pos a this
  have : ((2 ^ w : Nat) : Int) = 2 ^ w := by push_cast; rfl
  omega

/-- The inverse deltas give `W`-bit elements. -/
theorem undeltasFrom_fits (v p ds) : Fits v (undeltasFrom v p ds) := by
  induction ds generalizing p with
  | nil => intro x hx; cases hx
  | cons d ds ih =>
    intro x hx
    rw [undeltasFrom, List.mem_cons] at hx
    rcases hx with rfl | hx
    · unfold undeltaOf; split <;> exact residue_lt _ _
    · exact ih _ x hx

/-- The inverse deltas of a block give `W`-bit elements. -/
theorem undeltaBlock_fits (v k b vals) (hb : b < 2 ^ v.width) : Fits v (undeltaBlock v k b vals) := by
  unfold undeltaBlock
  split
  · split
    · intro x hx; cases hx
    · intro x hx
      rcases List.mem_cons.1 hx with rfl | hx
      · exact hb
      · exact undeltasFrom_fits _ _ _ x hx
  · exact undeltasFrom_fits _ _ _

/-- Patching keeps the length. -/
theorem patchApply_length (buf w b c n vals cur xs cu) (h : patchApply buf w b c n vals cur = .ok xs cu) : xs.length = vals.length := by
  induction n generalizing vals cur with
  | zero => injection h with h; rw [h]
  | succ n ih =>
    simp only [patchApply] at h
    split at h <;> try cases h
    split at h <;> try cases h
    split at h
    · exact ih _ _ h
    · split at h
      · cases h
      · rw [ih _ _ h]; simp [patchAt]

/-- The memory port answers every part of a range that it answers. -/
theorem portReads_part (port : List Region) (a n b k : Nat) (h1 : a ≤ b) (h2 : b + k ≤ a + n)
    (h : portReads port { base := a, size := n } = true) : portReads port { base := b, size := k } = true := by
  simp only [portReads, List.all_eq_true, Bool.not_eq_true', Bool.and_eq_false_iff] at h ⊢
  intro g hg
  refine (h g hg).imp id fun hm => ?_
  simp only [Range.meets, decide_eq_false_iff_not] at hm ⊢
  omega

/-- All that reading a header does where the port answers its three bytes (R98, R99): past the limit, malformed; malformed
by a width above `W` or a wrong count; else its fields, with the cursor past it. -/
theorem readHeader_of_portReads (buf : InBuf) (w c : Nat) (cur : Cursor)
    (h : portReads buf.port { base := buf.base + cur.pos, size := 3 } = true) :
    readHeader buf w c cur =
      let hd := headerOf (buf.mem.read (buf.base + cur.pos) 3)
      if buf.lim < cur.pos + 3 then .malformed { cur with pos := buf.lim }
      else if w < hd.b ∨ hd.cnt ≠ c then .malformed { cur with pos := cur.pos + 3 }
      else .ok hd { cur with pos := cur.pos + 3 } := by
  have ha : ∀ i, i < 3 → answered buf cur i = true := fun i hi =>
    portReads_part _ _ 3 _ 1 (Nat.le_add_right _ i) (by omega) h
  have hc (k : Nat) : k % 256 = c % 256 → k / 256 = c / 256 → k = c := by omega
  by_cases hl : buf.lim < cur.pos + 3
  · have ht : portReads buf.port { base := buf.base + cur.pos, size := buf.lim - cur.pos } = true :=
      portReads_part _ _ 3 _ _ le_rfl (by omega) h
    simp [readHeader, readData, readField, Cursor.truncated, hl, ht]
  · have hr : readData buf 3 cur = .ok (buf.mem.read (buf.base + cur.pos) 3) { cur with pos := cur.pos + 3 } := by
      simp [readData, readField, hl, h]
    simp only [readHeader, hr, hl, if_false]
    generalize headerOf (buf.mem.read (buf.base + cur.pos) 3) = hd
    have hq : headerRefuted buf w c hd cur = decide (w < hd.b ∨ hd.cnt ≠ c) := by
      rw [Bool.eq_iff_iff]
      simp only [headerRefuted, ha 0 (by omega), ha 1 (by omega), ha 2 (by omega), Bool.true_and, Bool.or_eq_true,
        decide_eq_true_eq, or_assoc]
      refine or_congr_right ⟨?_, fun hn => ?_⟩
      · rintro (h1 | h1) rfl <;> exact h1 rfl
      · by_contra hh
        simp only [not_or, not_not] at hh
        exact hn (hc _ hh.1 hh.2)
    simp [hq, ha 0 (by omega)]

/-- A decoded block has the expected count, as far as the lanes hold it. -/
theorem decodeBlock_length (v buf c cur xs sc cu) (h : decodeBlock v buf c cur = .ok (xs, sc) cu) : xs.length = min c (v.lanes * laneLen c v.lanes) := by
  unfold decodeBlock at h
  split at h <;> try cases h
  split at h <;> try cases h
  · simp only at h
    split at h
    · split at h <;> try cases h
      rename_i hh
      unfold decodeExceptions at hh
      split at hh <;> try cases hh
      rw [patchApply_length _ _ _ _ _ _ _ _ _ hh]; simp [unpackScratch]
    · injection h with h _; injection h with h _; rw [← h]; simp [unpackScratch]

/-- There is a lane. -/
theorem lanes_pos (v : Variant) : 0 < v.lanes := by unfold Variant.lanes laneCount; split <;> decide

/-- A block has room. -/
theorem bs_pos (v : Variant) : 0 < v.bs := by unfold Variant.bs blockSize; split <;> decide

/-- The ceiling is above the quotient. -/
theorem le_mul_ceilDiv (c l : Nat) (h : 0 < l) : c ≤ l * ceilDiv c l := by
  unfold ceilDiv
  have := Nat.lt_mul_div_succ (c + l - 1) h
  rw [Nat.mul_add] at this
  omega

/-- All that decoding one block does to the progress: the block index, the baseline, and elements in number and range. -/
theorem decodeStep_done (v buf n p me xs q e) (h : decodeStep v buf n p me = .done xs q e) :
    xs.length = blockLen n v.bs p.block ∧ q.block = p.block + 1 ∧ q.base = xs.getLastD p.base ∧ (p.base < 2 ^ v.width → Fits v xs) := by
  unfold decodeStep at h
  split at h <;> try cases h
  rename_i hb
  rw [undeltaBlock_length, decodeBlock_length _ _ _ _ _ _ _ hb]
  refine ⟨?_, rfl, rfl, fun hb => undeltaBlock_fits _ _ _ _ hb⟩
  have := le_mul_ceilDiv (blockLen n v.bs p.block) v.lanes (lanes_pos v)
  unfold laneLen; omega

/-- The last element is an element, or the default. -/
theorem getLastD_mem_or (xs : List Nat) (d x) (h : xs.getLastD d = x) : x ∈ xs ∨ x = d := by
  cases xs with
  | nil => right; exact h.symm
  | cons a as => left; rw [← h, List.getLastD_eq_getLast?, List.getLast?_eq_some_getLast (by simp), Option.getD_some]; exact List.getLast_mem _

/-- The blocks from a progress on give the elements that are left, each of `W` bits. -/
theorem decodeBlocks_done (v buf n k p me xs q e) (h : decodeBlocks v buf n k p me = .done xs q e) (hk : (p.block + k) * v.bs ≥ n) (hk2 : p.block * v.bs ≤ n) (hk3 : k ≠ 0 → (p.block + k - 1) * v.bs ≤ n) (hb : p.base < 2^v.width):
    xs.length = n - p.block * v.bs ∧ Fits v xs := by
  induction k generalizing p me xs with
  | zero =>
    injection h with h _ _
    subst h
    refine ⟨?_, fun x hx => by cases hx⟩
    simp at hk ⊢; omega
  | succ k ih =>
    simp only [decodeBlocks] at h
    split at h <;> try cases h
    rename_i ys r f hs
    split at h <;> try cases h
    rename_i zs r2 f2 hb2
    obtain ⟨l1, b1, b2, f1⟩ := decodeStep_done _ _ _ _ _ _ _ _ hs
    have f1 := f1 hb
    have hbase : r.base < 2 ^ v.width := by
      rw [b2]
      rcases getLastD_mem_or ys p.base _ rfl with h | h
      · exact f1 _ h
      · rw [h]; exact hb
    have hk3' := hk3 (by omega)
    have e0 : p.block + (k + 1) - 1 = p.block + k := by omega
    rw [e0] at hk3'
    by_cases hk0 : k = 0
    · subst hk0
      simp only [decodeBlocks] at hb2
      injection hb2 with hz _ _
      subst hz
      simp only [List.append_nil]
      refine ⟨?_, f1⟩
      rw [l1, blockLen]
      have : (p.block + (0+1)) * v.bs = p.block * v.bs + v.bs := by ring
      omega
    · have le2 : r.block * v.bs ≤ n := by
        rw [b1]
        refine le_trans ?_ hk3'
        exact Nat.mul_le_mul_right _ (by omega)
      obtain ⟨l2, f2⟩ := ih _ _ _ hb2 (by rw [b1]; rw [show p.block + 1 + k = p.block + (k+1) by omega]; exact hk) le2 (by intro _; rw [b1, show p.block + 1 + k - 1 = p.block + k by omega]; exact hk3') hbase
      constructor
      · rw [List.length_append, l1, l2, blockLen, b1]
        rw [b1] at le2
        have : (p.block + 1) * v.bs = p.block * v.bs + v.bs := by ring
        omega
      · intro x hx
        rcases List.mem_append.1 hx with hx | hx
        · exact f1 x hx
        · exact f2 x hx

/-- The blocks cover the sequence, and all but the last are full. -/
theorem blocks_cover (n b : Nat) (h : 0 < b) : n ≤ ceilDiv n b * b ∧ (ceilDiv n b - 1) * b ≤ n := by
  have h1 := le_mul_ceilDiv n b h
  rw [Nat.mul_comm] at h1
  refine ⟨h1, ?_⟩
  unfold ceilDiv
  have := Nat.div_mul_le_self (n + b - 1) b
  rw [Nat.sub_mul]
  omega

/-- A baseline is a `W`-bit value. -/
theorem baseline_lt (v : Variant) (bs : List Byte) (h : bs.length = v.size) : fromLE bs < 2 ^ v.width := by
  have := fromLE_lt bs
  rw [h] at this
  unfold Variant.size Variant.width elemSize elemWidth at *
  split at this <;> simp_all

/-- A stream that passes the reader gives `N` elements of `W` bits (R101). -/
theorem decodeStream_done (v buf n xs p e) (h : decodeStream v buf n = .done xs p e) : xs.length = n ∧ Fits v xs := by
  unfold decodeStream at h
  split at h
  · rename_i hn; injection h with h _ _; subst h; exact ⟨hn.symm, fun x hx => by cases hx⟩
  · rename_i hn
    split at h <;> try cases h
    rename_i bs c hr
    have hl : bs.length = v.size := by
      unfold readData readField at hr
      split at hr <;> rename_i hq <;> split at hq <;> try cases hq
      · injection hr with hr _; rw [← hr]; simp
      all_goals cases hr
    obtain ⟨a, b⟩ := blocks_cover n v.bs (bs_pos v)
    have := decodeBlocks_done _ _ _ _ _ _ _ _ _ h (by simpa [blockCount, Progress.afterBase] using a) (by simp [Progress.afterBase]) (by intro _; simpa [blockCount, Progress.afterBase] using b) (baseline_lt v bs hl)
    simpa [Progress.afterBase] using this

/-- A truncated baseline is malformed, and no element is known (R97, R106). -/
theorem decodeStream_truncated_baseline (v : Variant) (buf : InBuf) (n : Nat) (hn : n ≠ 0) (hl : buf.lim < v.size) :
    ∃ p e, decodeStream v buf n = .malformed p e ∧ p.known v = 0 := by
  have h : buf.lim < 0 + v.size := by omega
  exact ⟨{ Progress.start with offset := buf.lim }, _,
    by simp only [decodeStream, readData, readField, hn, h, if_true, if_false]; rfl, by simp [Progress.known, hl]⟩

/-- Once the baseline is read, `x[0]` and the elements of the blocks before are known (R106). -/
theorem known_of_baseline (v : Variant) (p : Progress) (h : v.size ≤ p.offset) : p.known v = max p.elem 1 := by
  simp [Progress.known, Nat.not_lt.2 h]

/-- `256^E = 2^W`. -/
theorem size_pow_eq (v : Variant) : 256 ^ v.size = 2 ^ v.width := by
  unfold Variant.size Variant.width elemSize elemWidth; split <;> norm_num

/-- A write in two parts. -/
theorem write_append (m : Memory) (a : Nat) (p q : List Byte) :
    m.write a (p ++ q) = (m.write a p).write (a + p.length) q := by
  induction p generalizing m a with
  | nil => simp [Memory.write]
  | cons b p ih => simp only [List.cons_append, Memory.write, ih, List.length_cons]; congr 1; omega

/-- The elements of an array that was written are read back (R13). -/
theorem elemAt_write (m : Memory) (a size : Nat) (xs : List Nat) (g : Nat) (hw : m.wf = true) (hg : g < xs.length)
    (hf : ∀ x ∈ xs, x < 256 ^ size) : elemAt (m.write a (elemBytes size xs)) a size g = xs.getD g 0 := by
  have h : (m.write a (elemBytes size xs)).read (a + g * size) size = leBytes size (xs.getD g 0) := by
    clear hf
    induction xs generalizing m a g with
    | nil => simp at hg
    | cons x xs ih =>
      have e : elemBytes size (x :: xs) = leBytes size x ++ elemBytes size xs := rfl
      rw [e, write_append, leBytes_length]
      cases g with
      | zero =>
        simp only [Nat.zero_mul, Nat.add_zero, List.getD_cons_zero]
        rw [read_congr _ (m.write a (leBytes size x)) a size
          (fun y _ h2 => get_write_outside _ _ _ _ (by omega))]
        have := read_write m a (leBytes size x) hw
        rwa [leBytes_length] at this
      | succ g =>
        have := ih (m.write a (leBytes size x)) (a + size) g (write_wf _ _ _ hw) (by simpa using hg)
        rw [show a + (g + 1) * size = a + size + g * size by ring, this]
        simp
  rw [elemAt, h, fromLE_leBytes_of_lt]
  apply hf
  simp [List.getD_eq_getElem?_getD, List.getElem?_eq_getElem hg]

end Sys2Proof.Machine
end

