-- ==== Sys2Proof/Laws/State.lean ====
section
/-! SUPPORT. What each update of the state leaves in each field: the simp set of the record operations. -/

namespace Sys2Proof.Machine

@[simp] theorem setChan_params (s : State) (k : Nat) (c : Chan) : (s.setChan k c).params = s.params := rfl
@[simp] theorem setChan_mem (s : State) (k : Nat) (c : Chan) : (s.setChan k c).mem = s.mem := rfl
@[simp] theorem setChan_port (s : State) (k : Nat) (c : Chan) : (s.setChan k c).port = s.port := rfl
@[simp] theorem setChan_inputs (s : State) (k : Nat) (c : Chan) : (s.setChan k c).inputs = s.inputs := rfl
@[simp] theorem setChan_cur (s : State) (k : Nat) (c : Chan) : (s.setChan k c).cur = s.cur := rfl
@[simp] theorem setChan_busData (s : State) (k : Nat) (c : Chan) : (s.setChan k c).busData = s.busData := rfl
@[simp] theorem setChan_draws (s : State) (k : Nat) (c : Chan) : (s.setChan k c).draws = s.draws := rfl
@[simp] theorem setChan_chans (s : State) (k : Nat) (c : Chan) : (s.setChan k c).chans = s.chans.set k c := rfl

@[simp] theorem select_params (s : State) (k : Nat) : (s.select k).params = s.params := rfl
@[simp] theorem select_mem (s : State) (k : Nat) : (s.select k).mem = s.mem := rfl
@[simp] theorem select_port (s : State) (k : Nat) : (s.select k).port = s.port := rfl
@[simp] theorem select_inputs (s : State) (k : Nat) : (s.select k).inputs = s.inputs := rfl
@[simp] theorem select_cur (s : State) (k : Nat) : (s.select k).cur = k := rfl
@[simp] theorem select_busData (s : State) (k : Nat) : (s.select k).busData = s.busData := rfl
@[simp] theorem select_draws (s : State) (k : Nat) : (s.select k).draws = s.draws := rfl
@[simp] theorem select_chans (s : State) (k : Nat) : (s.select k).chans = s.chans := rfl
@[simp] theorem select_chan (s : State) (k j : Nat) : (s.select k).chan j = s.chan j := rfl
@[simp] theorem select_curChan (s : State) (k : Nat) : (s.select k).curChan = s.chan k := rfl

@[simp] theorem complete_params (s : State) (r : DWord) (e : BitVec 4) : (s.complete r e).params = s.params := rfl
@[simp] theorem complete_mem (s : State) (r : DWord) (e : BitVec 4) : (s.complete r e).mem = s.mem := rfl
@[simp] theorem complete_port (s : State) (r : DWord) (e : BitVec 4) : (s.complete r e).port = s.port := rfl
@[simp] theorem complete_inputs (s : State) (r : DWord) (e : BitVec 4) : (s.complete r e).inputs = s.inputs := rfl
@[simp] theorem complete_cur (s : State) (r : DWord) (e : BitVec 4) : (s.complete r e).cur = s.cur := rfl
@[simp] theorem complete_busData (s : State) (r : DWord) (e : BitVec 4) : (s.complete r e).busData = s.busData := rfl
@[simp] theorem complete_draws (s : State) (r : DWord) (e : BitVec 4) : (s.complete r e).draws = s.draws := rfl

@[simp] theorem scramble_params (s : State) (r : Range) : (s.scramble r).params = s.params := rfl
@[simp] theorem scramble_mem (s : State) (r : Range) :
    (s.scramble r).mem = s.mem.write r.base (s.freeBytes r.size) := rfl
@[simp] theorem scramble_port (s : State) (r : Range) : (s.scramble r).port = s.port := rfl
@[simp] theorem scramble_inputs (s : State) (r : Range) : (s.scramble r).inputs = s.inputs := rfl
@[simp] theorem scramble_cur (s : State) (r : Range) : (s.scramble r).cur = s.cur := rfl
@[simp] theorem scramble_busData (s : State) (r : Range) : (s.scramble r).busData = s.busData := rfl
@[simp] theorem scramble_draws (s : State) (r : Range) : (s.scramble r).draws = s.draws + 1 := rfl
@[simp] theorem scramble_chans (s : State) (r : Range) : (s.scramble r).chans = s.chans := rfl
@[simp] theorem scramble_chan (s : State) (r : Range) (k : Nat) : (s.scramble r).chan k = s.chan k := rfl
@[simp] theorem scramble_curChan (s : State) (r : Range) : (s.scramble r).curChan = s.curChan := rfl

@[simp] theorem raceWrite_params (s : State) (r : Range) : (s.raceWrite r).params = s.params := rfl
@[simp] theorem raceWrite_mem (s : State) (r : Range) : (s.raceWrite r).mem = s.mem := rfl
@[simp] theorem raceWrite_port (s : State) (r : Range) : (s.raceWrite r).port = s.port := rfl
@[simp] theorem raceWrite_inputs (s : State) (r : Range) : (s.raceWrite r).inputs = s.inputs := rfl
@[simp] theorem raceWrite_cur (s : State) (r : Range) : (s.raceWrite r).cur = s.cur := rfl
@[simp] theorem raceWrite_busData (s : State) (r : Range) : (s.raceWrite r).busData = s.busData := rfl
@[simp] theorem raceWrite_draws (s : State) (r : Range) : (s.raceWrite r).draws = s.draws := rfl
@[simp] theorem raceWrite_chans (s : State) (r : Range) :
    (s.raceWrite r).chans = s.chans.map (·.raceIf (hits s r)) := rfl

@[simp] theorem raceAccept_params (s : State) (l : Latch) : (s.raceAccept l).params = s.params := rfl
@[simp] theorem raceAccept_mem (s : State) (l : Latch) : (s.raceAccept l).mem = s.mem := rfl
@[simp] theorem raceAccept_port (s : State) (l : Latch) : (s.raceAccept l).port = s.port := rfl
@[simp] theorem raceAccept_inputs (s : State) (l : Latch) : (s.raceAccept l).inputs = s.inputs := rfl
@[simp] theorem raceAccept_cur (s : State) (l : Latch) : (s.raceAccept l).cur = s.cur := rfl
@[simp] theorem raceAccept_busData (s : State) (l : Latch) : (s.raceAccept l).busData = s.busData := rfl
@[simp] theorem raceAccept_draws (s : State) (l : Latch) : (s.raceAccept l).draws = s.draws := rfl
@[simp] theorem raceAccept_chans (s : State) (l : Latch) :
    (s.raceAccept l).chans = s.chans.map (·.raceIf (conflict s l)) := rfl

@[simp] theorem accept_params (s : State) (k : Nat) (w : Word) : (s.accept k w).params = s.params := rfl
@[simp] theorem accept_mem (s : State) (k : Nat) (w : Word) : (s.accept k w).mem = s.mem := rfl
@[simp] theorem accept_port (s : State) (k : Nat) (w : Word) : (s.accept k w).port = s.port := rfl
@[simp] theorem accept_inputs (s : State) (k : Nat) (w : Word) : (s.accept k w).inputs = s.inputs := rfl
@[simp] theorem accept_cur (s : State) (k : Nat) (w : Word) : (s.accept k w).cur = s.cur := rfl
@[simp] theorem accept_busData (s : State) (k : Nat) (w : Word) : (s.accept k w).busData = s.busData := rfl
@[simp] theorem accept_draws (s : State) (k : Nat) (w : Word) : (s.accept k w).draws = s.draws := rfl

@[simp] theorem resetWith_params (p : Params) : (State.resetWith p).params = p := rfl
@[simp] theorem resetWith_mem (p : Params) : (State.resetWith p).mem = [] := rfl
@[simp] theorem resetWith_chans (p : Params) : (State.resetWith p).chans = List.replicate p.nch .blank := rfl

@[simp] theorem resetNow_params (s : State) : s.resetNow.params = s.params := rfl
@[simp] theorem resetNow_port (s : State) : s.resetNow.port = s.port := rfl
@[simp] theorem resetNow_inputs (s : State) : s.resetNow.inputs = s.inputs := rfl
@[simp] theorem resetNow_busData (s : State) : s.resetNow.busData = s.busData := rfl
@[simp] theorem resetNow_cur (s : State) : s.resetNow.cur = 0 := rfl
@[simp] theorem resetNow_chans (s : State) : s.resetNow.chans = List.replicate s.params.nch .blank := rfl
@[simp] theorem resetNow_mem (s : State) : s.resetNow.mem = (s.chans.foldl State.abandon s).mem := rfl
@[simp] theorem resetNow_draws (s : State) : s.resetNow.draws = (s.chans.foldl State.abandon s).draws := rfl

@[simp] theorem busy_iff (c : Chan) : c.busy = true ↔ c.eng = .busy := by simp [Chan.busy]

/-- Reading back the channel that was written. -/
@[simp] theorem setChan_chan_self (s : State) (k : Nat) (c : Chan) (h : k < s.chans.length) :
    (s.setChan k c).chan k = c := by
  simp [State.chan, List.getD_eq_getElem?_getD, List.getElem?_set_self h]

/-- Writing one channel leaves the others. -/
@[simp] theorem setChan_chan_ne (s : State) (k j : Nat) (c : Chan) (h : j ≠ k) :
    (s.setChan k c).chan j = s.chan j := by
  simp [State.chan, List.getD_eq_getElem?_getD, List.getElem?_set_ne (Ne.symm h)]

/-- A channel that does not exist reads as reset. -/
theorem chan_of_le (s : State) (k : Nat) (h : s.chans.length ≤ k) : s.chan k = .blank := by
  simp [State.chan, List.getD_eq_getElem?_getD, List.getElem?_eq_none h]

/-- A channel that exists is one of the list. -/
theorem chan_mem (s : State) (k : Nat) (h : k < s.chans.length) : s.chan k ∈ s.chans := by
  simp [State.chan, List.getD_eq_getElem?_getD, List.getElem?_eq_getElem h]

/-- A channel whose engine is busy exists. -/
theorem lt_of_busy (s : State) (k : Nat) (h : (s.chan k).busy = true) : k < s.chans.length := by
  by_contra hk
  rw [chan_of_le s k (Nat.le_of_not_lt hk)] at h
  exact absurd h (by decide)

/-- All that marking a race can do to a channel: its mark, and only while its command runs. -/
theorem raceIf_cases (c : Chan) (f : Latch → Bool) :
    c.raceIf f = c ∨ (c.eng = .busy ∧ c.raceIf f = { c with raced := true }) := by
  unfold Chan.raceIf
  split
  · rename_i h
    simp only [Bool.and_eq_true, busy_iff] at h
    exact .inr ⟨h.1, rfl⟩
  · exact .inl rfl

end Sys2Proof.Machine
end

