-- ==== Sys2Proof/Laws/Ops.lean ====
section
/-! SUPPORT. What the shared operations can do, once each: completion, the draws, acceptance, the pre-checks and the runs
of the three families. -/

namespace Sys2Proof.Machine

/-- A register pair is read back from its halves. -/
theorem pairVal_halves (r : DWord) : pairVal (r.extractLsb' 32 32) (r.extractLsb' 0 32) = r := by
  apply BitVec.eq_of_getLsbD_eq
  intro i hi
  simp only [pairVal, BitVec.getLsbD_append, BitVec.getLsbD_extractLsb']
  split
  · rename_i h; simp [h]
  · rename_i h
    rw [show 32 + (i - 32) = i by omega]
    simp only [Bool.and_eq_right_iff_imp, decide_eq_true_eq]
    intro _; omega

/-- A register pair as a number (R17). -/
theorem pairVal_toNat (hi lo : Word) : (pairVal hi lo).toNat = hi.toNat * 2 ^ 32 + lo.toNat := by
  have := lo.isLt
  simp only [pairVal, BitVec.toNat_append]
  rw [← Nat.shiftLeft_add_eq_or_of_lt this, Nat.shiftLeft_eq]

/-- The word that a register write carries (R18). -/
@[simp] theorem wordOfBytes_leBytes (w : Word) : wordOfBytes (leBytes 4 w.toNat) = w := by
  apply BitVec.eq_of_toNat_eq
  have := w.isLt
  rw [wordOfBytes, BitVec.toNat_ofNat, fromLE_leBytes_of_lt _ _ (by omega)]
  omega

/-- A host write of a word with `OP != 0` to `CMD` issues it (R22). -/
theorem writeCmd_of_op_ne_zero (ch : Nat) (w : Word) (s : State) (h : opField w ≠ 0) :
    writeCmd ch w s = .next (s.issue ch w) := by
  unfold writeCmd
  split
  · rename_i n hn; exact absurd hn (decodeCmd_ne_nop w n h)
  · rfl

/-- The running channel after a completion. -/
theorem complete_curChan (s : State) (r : DWord) (e : BitVec 4) (h : s.cur < s.chans.length) :
    (s.complete r e).curChan =
      { flagsAtComplete s.curChan e with
        resultLo := r.extractLsb' 0 32, resultHi := r.extractLsb' 32 32, prog := .start, raced := false } :=
  setChan_chan_self s s.cur _ h

/-- A completion leaves every other channel. -/
theorem complete_others (s : State) (r : DWord) (e : BitVec 4) (k : Nat) (h : k ≠ s.cur) :
    (s.complete r e).chan k = s.chan k := setChan_chan_ne s s.cur k _ h

/-- All that a completion does (R29 step 3). -/
theorem complete_spec (s : State) (r : DWord) (e : BitVec 4) (h : s.cur < s.chans.length) :
    CompletedWith s (s.complete r e) e ∧ (s.complete r e).curChan.result = r ∧ (s.complete r e).mem = s.mem := by
  have hc := complete_curChan s r e h
  refine ⟨⟨by rw [hc]; rfl, by rw [hc]; rfl, by rw [hc]; rfl, ?_, ?_⟩, ?_, rfl⟩
  · rw [hc]; exact ⟨rfl, rfl, rfl, rfl, rfl, rfl, rfl, rfl, rfl, rfl, rfl, rfl⟩
  · exact ⟨rfl, rfl, rfl, rfl, rfl, by simp [State.complete], fun k hk => complete_others s r e k hk⟩
  · rw [hc]; exact pairVal_halves r

/-- All that an error completion during execution does (R114): the code is reported, and no byte outside the write range
changes. -/
theorem failDirty_spec (s : State) (e : BitVec 4) (r : Range) (h : s.cur < s.chans.length) :
    CompletedWith s (s.failDirty e r) e ∧ SameOutside s.mem (s.failDirty e r).mem r := by
  obtain ⟨⟨h1, h2, h3, h4, h5⟩, _, hm⟩ := complete_spec (s.scramble r) (Config.freeResult s.draws) e h
  refine ⟨⟨h1, h2, h3, h4, ⟨h5.params, h5.port, h5.inputs, h5.cur, h5.busData, h5.count, h5.others⟩⟩, ?_⟩
  have hm' : (s.failDirty e r).mem = s.mem.write r.base (s.freeBytes r.size) := hm
  rw [hm']
  exact write_sameOutside s.mem r _ (by simp)

/-- All that a reset does with one channel (R125): nothing where its engine is idle; else the bytes of its range become a
draw, and no other byte changes. -/
theorem abandon_spec (s : State) (c : Chan) (hw : s.mem.wf = true) :
    (c.busy = false → s.abandon c = s) ∧
      (c.busy = true →
        let r := (abandonedRange c.latch).within s.params.addrWidth
        (s.abandon c).mem.read r.base r.size = s.freeBytes r.size ∧ SameOutside s.mem (s.abandon c).mem r ∧
          (s.abandon c).draws = s.draws + 1) := by
  refine ⟨fun h => by simp [State.abandon, h], fun h => ?_⟩
  simp only [State.abandon, h, if_true, scramble_mem, scramble_draws, and_true]
  have hl (n : Nat) : (s.freeBytes n).length = n := by simp
  refine ⟨?_, write_sameOutside s.mem _ _ (hl _).le⟩
  have := read_write s.mem ((abandonedRange c.latch).within s.params.addrWidth).base
    (s.freeBytes ((abandonedRange c.latch).within s.params.addrWidth).size) hw
  rwa [hl] at this

@[simp] theorem stepN_zero (s : State) : stepN 0 s = .next s := rfl

/-- The first of several steps, where it answers a next state. -/
theorem stepN_succ (n : Nat) (s t : State) (h : step s = .next t) : stepN (n + 1) s = stepN n t := by
  simp [stepN, h]

/-- All that an inner step on the agenda does: the entry is taken off, and a busy channel's progress moves (R29, R31). -/
theorem step_tick (s : State) (ch : Nat) (rest : List Input) (h : s.inputs = .tick ch :: rest) :
    step s = .next (({ s with inputs := rest } : State).innerStep ch) := by
  simp [step, h, perform]

/-- Errors before any memory access leave memory and report `RESULT = 0` (R114). -/
theorem failClean_spec (s : State) (e : ErrCode) (h : s.cur < s.chans.length) :
    CompletedWith s (s.failClean e) e.code ∧ (s.failClean e).curChan.result = 0 ∧ (s.failClean e).mem = s.mem :=
  complete_spec s 0 e.code h

/-- A successful completion after a write of memory. -/
theorem complete_write_spec (s : State) (a : Nat) (bs : List Byte) (r : DWord) (h : s.cur < s.chans.length) :
    CompletedWith s (({ s with mem := s.mem.write a bs } : State).complete r 0) 0 ∧
      (({ s with mem := s.mem.write a bs } : State).complete r 0).curChan.result = r ∧
      (({ s with mem := s.mem.write a bs } : State).complete r 0).mem = s.mem.write a bs := by
  obtain ⟨⟨h1, h2, h3, h4, h5⟩, hr, hm⟩ := complete_spec { s with mem := s.mem.write a bs } r 0 h
  exact ⟨⟨h1, h2, h3, h4, ⟨h5.params, h5.port, h5.inputs, h5.cur, h5.busData, h5.count, h5.others⟩⟩, hr, hm⟩

/-- The channel that accepts a command (R29 step 1). -/
theorem accept_chan_self (s : State) (k : Nat) (w : Word) (h : k < s.chans.length) :
    (s.accept k w).chan k = (s.chan k).accept w (s.contested (latchOf (s.chan k) w)) :=
  setChan_chan_self _ k _ (by simpa using h)

/-- Acceptance leaves every other channel but for the mark of a race (R121). -/
theorem accept_chan_ne (s : State) (k j : Nat) (w : Word) (h : j ≠ k) (hj : j < s.chans.length) :
    (s.accept k w).chan j = (s.chan j).raceIf (conflict s (latchOf (s.chan k) w)) := by
  rw [State.accept, setChan_chan_ne _ _ _ _ h]
  simp [State.chan, List.getD_eq_getElem?_getD, List.getElem?_eq_getElem hj]

/-- The order of the pre-checks (R103): each error, and what it takes. -/
theorem precheck_eq_some (p : Params) (wide : Bool) (rin rout : Range) (need cap : Nat) (e : ErrCode) :
    precheck p wide rin rout need cap = some e ↔
      (e = .cap ∧ wide = true ∧ p.hasWide = false) ∨
      (¬(wide = true ∧ p.hasWide = false) ∧
        ((e = .range ∧ ¬(rin.valid p.addrWidth = true ∧ rout.valid p.addrWidth = true)) ∨
         (rin.valid p.addrWidth = true ∧ rout.valid p.addrWidth = true ∧
          ((e = .dstCap ∧ cap < need) ∨ (¬cap < need ∧ e = .overlap ∧ rin.meets rout = true))))) := by
  unfold precheck
  cases wide <;> cases p.hasWide <;> cases rin.valid p.addrWidth <;> cases rout.valid p.addrWidth <;>
    by_cases hc : cap < need <;> cases rin.meets rout <;> simp [hc, eq_comm]

/-- All pre-checks pass (R103). -/
theorem precheck_eq_none (p : Params) (wide : Bool) (rin rout : Range) (need cap : Nat) :
    precheck p wide rin rout need cap = none ↔
      (wide = true → p.hasWide = true) ∧ rin.valid p.addrWidth = true ∧ rout.valid p.addrWidth = true ∧ need ≤ cap ∧
        rin.meets rout = false := by
  unfold precheck
  cases wide <;> cases p.hasWide <;> cases rin.valid p.addrWidth <;> cases rout.valid p.addrWidth <;>
    by_cases hc : cap < need <;> cases rin.meets rout <;> simp [hc] <;> omega

/-- All that an encode can do when it answers a next state (R105). -/
theorem runEnc_cases (v : Variant) (s t : State) (h : runEnc v s = .next t) :
    (∃ e, precheckEnc s.params v s.curChan.latch = some e ∧ t = s.failClean e) ∨
    (precheckEnc s.params v s.curChan.latch = none ∧
      onDevice s.port (encIn v s.curChan.latch) = false ∧ onDevice s.port (encOut s.curChan.latch) = false ∧
      ((s.curChan.raced = true ∧ t = s.failDirty s.anyCode (encDirty v s.curChan.latch)) ∨
       (s.curChan.raced = false ∧ t = encodeRun v s.curChan.latch s))) := by
  simp only [runEnc] at h
  split at h
  · rename_i e he
    exact .inl ⟨e, he, by injection h with h; exact h.symm⟩
  · rename_i he
    split at h
    · exact absurd h (by simp)
    · rename_i hd
      simp only [Bool.or_eq_true, not_or, Bool.not_eq_true] at hd
      refine .inr ⟨he, hd.1, hd.2, ?_⟩
      split at h
      · rename_i hr; exact .inl ⟨hr, by injection h with h; exact h.symm⟩
      · rename_i hr; exact .inr ⟨by simpa using hr, by injection h with h; exact h.symm⟩

/-- All that a decode can do when it answers a next state (R106). -/
theorem runDec_cases (v : Variant) (s t : State) (h : runDec v s = .next t) :
    (∃ e, precheckDec s.params v s.curChan.latch = some e ∧ t = s.failClean e) ∨
    (precheckDec s.params v s.curChan.latch = none ∧
      onDevice s.port (decIn s.curChan.latch) = false ∧ onDevice s.port (decOut v s.curChan.latch) = false ∧
      ((s.curChan.raced = true ∧ t = s.failDirty s.anyCode (decOut v s.curChan.latch)) ∨
       (s.curChan.raced = false ∧ t = decodeRun v s.curChan.latch s))) := by
  simp only [runDec] at h
  split at h
  · rename_i e he
    exact .inl ⟨e, he, by injection h with h; exact h.symm⟩
  · rename_i he
    split at h
    · exact absurd h (by simp)
    · rename_i hd
      simp only [Bool.or_eq_true, not_or, Bool.not_eq_true] at hd
      refine .inr ⟨he, hd.1, hd.2, ?_⟩
      split at h
      · rename_i hr; exact .inl ⟨hr, by injection h with h; exact h.symm⟩
      · rename_i hr; exact .inr ⟨by simpa using hr, by injection h with h; exact h.symm⟩

/-- All that the execution of an encode can do (R105): success with the stream written, or `ERR_MEM`. -/
theorem encodeRun_cases (v : Variant) (s : State) :
    (portReads s.port (encIn v s.curChan.latch) = true ∧
      portWrites s.port { base := s.curChan.latch.dst.toNat, size := (encOutput v s).length } = true ∧
      encodeRun v s.curChan.latch s =
        ({ s with mem := s.mem.write s.curChan.latch.dst.toNat (encOutput v s) } : State).complete
          (BitVec.ofNat 64 (encOutput v s).length) 0) ∨
    ((portReads s.port (encIn v s.curChan.latch) = false ∨
        portWrites s.port { base := s.curChan.latch.dst.toNat, size := (encOutput v s).length } = false) ∧
      encodeRun v s.curChan.latch s = s.failDirty ErrCode.mem.code (encDirty v s.curChan.latch)) := by
  simp only [encodeRun, encOutput, encInput]
  split
  · rename_i h
    rw [Bool.and_eq_true] at h
    exact .inl ⟨h.1, h.2, rfl⟩
  · rename_i h
    rw [Bool.and_eq_true, not_and_or, Bool.not_eq_true, Bool.not_eq_true] at h
    exact .inr ⟨h, rfl⟩

/-- All that the execution of a decode can do (R106): success with the elements written, or an error completion whose
code is `ERR_MEM` or `ERR_MALFORMED`, the latter only on a malformed stream. -/
theorem decodeRun_cases (v : Variant) (s : State) :
    (∃ xs p, decOutcome v s = .done xs p false ∧ portWrites s.port (decOut v s.curChan.latch) = true ∧
      decodeRun v s.curChan.latch s =
        ({ s with mem := s.mem.write s.curChan.latch.dst.toNat (elemBytes v.size xs) } : State).complete
          (BitVec.ofNat 64 p.offset) 0) ∨
    (∃ e : BitVec 4, (e = ErrCode.mem.code ∨ (e = ErrCode.malformed.code ∧ ∃ p m, decOutcome v s = .malformed p m)) ∧
      decodeRun v s.curChan.latch s = s.failDirty e (decOut v s.curChan.latch)) := by
  simp only [decodeRun, decOutcome]
  cases h : decodeStream v (s.inBuf s.curChan.latch) s.curChan.latch.count with
  | done xs p m =>
    cases m
    · cases hw : portWrites s.port (decOut v s.curChan.latch)
      · exact .inr ⟨_, .inl rfl, by simp⟩
      · exact .inl ⟨xs, p, rfl, rfl, by simp⟩
    · exact .inr ⟨_, .inl rfl, by simp⟩
  | malformed p m =>
    refine .inr ?_
    simp only
    split
    · exact ⟨_, .inr ⟨rfl, p, m, rfl⟩, rfl⟩
    · refine ⟨s.eitherCode, ?_, rfl⟩
      unfold State.eitherCode
      split
      · exact .inl rfl
      · exact .inr ⟨rfl, p, m, rfl⟩
  | busError p => exact .inr ⟨_, .inl rfl, rfl⟩

/-- An encode whose conditions hold executes, or ends with free values if it was raced (R103, R44). -/
theorem exec_enc_of_ready (v : Variant) (s : State) (h : EncReady v s) :
    exec (.enc v) s =
      if s.curChan.raced then .next (s.failDirty s.anyCode (encDirty v s.curChan.latch))
      else .next (encodeRun v s.curChan.latch s) := by
  have hp : precheckEnc s.params v s.curChan.latch = none :=
    (precheck_eq_none _ _ _ _ _ _).2 ⟨h.capability, h.inValid, h.outValid, h.capacity, h.apart⟩
  rw [exec_enc, runEnc]
  simp only [hp, h.noDeviceIn, h.noDeviceOut]
  rfl

/-- A decode whose conditions hold executes, or ends with free values if it was raced (R103, R44). -/
theorem exec_dec_of_ready (v : Variant) (s : State) (h : DecReady v s) :
    exec (.dec v) s =
      if s.curChan.raced then .next (s.failDirty s.anyCode (decOut v s.curChan.latch))
      else .next (decodeRun v s.curChan.latch s) := by
  have hp : precheckDec s.params v s.curChan.latch = none :=
    (precheck_eq_none _ _ _ _ _ _).2 ⟨h.capability, h.inValid, h.outValid, h.capacity, h.apart⟩
  rw [exec_dec, runDec]
  simp only [hp, h.noDeviceIn, h.noDeviceOut]
  rfl

end Sys2Proof.Machine
end

