-- ==== Sys2Proof/Laws/PerInstr.lean ====
section
/-! SUPPORT. One law per command: the word of a well-formed command carries the `OP` of its family, and every word but a
NOP's has its reserved bits clear (R50, R52), so that it is never an illegal word. -/

namespace Sys2Proof.Laws

/-- The value of `OP` of a kind of command (R50). -/
def opOf : Kind → Nat
  | .nop _ => 0
  | .enc _ => 1
  | .dec _ => 2
  | .bound _ _ _ => 3

/-- The word of a well-formed command is legal: `OP` is its family's, and bits 31:9 are clear unless it is a NOP. -/
def EncodeLegal.Statement (i : Instr) : Prop :=
  i.wf = true → (opField (encode i)).toNat = opOf i.kind ∧ (opOf i.kind = 0 ∨ reservedField (encode i) = 0)

/-- The word of a `BOUND` is legal. -/
theorem bound_word_legal (wide w64 : Bool) (a : Nat) (h : a < 8) :
    (opField (encodeKind (.bound wide w64 a))).toNat = 3 ∧ reservedField (encodeKind (.bound wide w64 a)) = 0 := by
  rw [opField_toNat, reservedField_eq_zero_iff]
  simp only [encodeKind, BitVec.toNat_ofNat]
  cases wide <;> cases w64 <;> simp only [Bool.toNat_true, Bool.toNat_false] <;> omega

theorem EncodeLegal.nop (n : Nat) : EncodeLegal.Statement (.nop n) := by
  intro _
  refine ⟨?_, .inl rfl⟩
  rw [opField_toNat]
  simp only [encode, encodeKind, Instr.kind, BitVec.toNat_ofNat, opOf]
  omega

theorem EncodeLegal.enc128U32UpD0 : EncodeLegal.Statement .enc128U32UpD0 := fun _ => by decide

theorem EncodeLegal.enc128U32UpD1 : EncodeLegal.Statement .enc128U32UpD1 := fun _ => by decide

theorem EncodeLegal.enc128U32DnD0 : EncodeLegal.Statement .enc128U32DnD0 := fun _ => by decide

theorem EncodeLegal.enc128U32DnD1 : EncodeLegal.Statement .enc128U32DnD1 := fun _ => by decide

theorem EncodeLegal.enc128S32UpD0 : EncodeLegal.Statement .enc128S32UpD0 := fun _ => by decide

theorem EncodeLegal.enc128S32UpD1 : EncodeLegal.Statement .enc128S32UpD1 := fun _ => by decide

theorem EncodeLegal.enc128S32DnD0 : EncodeLegal.Statement .enc128S32DnD0 := fun _ => by decide

theorem EncodeLegal.enc128S32DnD1 : EncodeLegal.Statement .enc128S32DnD1 := fun _ => by decide

theorem EncodeLegal.enc128U64UpD0 : EncodeLegal.Statement .enc128U64UpD0 := fun _ => by decide

theorem EncodeLegal.enc128U64UpD1 : EncodeLegal.Statement .enc128U64UpD1 := fun _ => by decide

theorem EncodeLegal.enc128U64DnD0 : EncodeLegal.Statement .enc128U64DnD0 := fun _ => by decide

theorem EncodeLegal.enc128U64DnD1 : EncodeLegal.Statement .enc128U64DnD1 := fun _ => by decide

theorem EncodeLegal.enc128S64UpD0 : EncodeLegal.Statement .enc128S64UpD0 := fun _ => by decide

theorem EncodeLegal.enc128S64UpD1 : EncodeLegal.Statement .enc128S64UpD1 := fun _ => by decide

theorem EncodeLegal.enc128S64DnD0 : EncodeLegal.Statement .enc128S64DnD0 := fun _ => by decide

theorem EncodeLegal.enc128S64DnD1 : EncodeLegal.Statement .enc128S64DnD1 := fun _ => by decide

theorem EncodeLegal.enc256U32UpD0 : EncodeLegal.Statement .enc256U32UpD0 := fun _ => by decide

theorem EncodeLegal.enc256U32UpD1 : EncodeLegal.Statement .enc256U32UpD1 := fun _ => by decide

theorem EncodeLegal.enc256U32DnD0 : EncodeLegal.Statement .enc256U32DnD0 := fun _ => by decide

theorem EncodeLegal.enc256U32DnD1 : EncodeLegal.Statement .enc256U32DnD1 := fun _ => by decide

theorem EncodeLegal.enc256S32UpD0 : EncodeLegal.Statement .enc256S32UpD0 := fun _ => by decide

theorem EncodeLegal.enc256S32UpD1 : EncodeLegal.Statement .enc256S32UpD1 := fun _ => by decide

theorem EncodeLegal.enc256S32DnD0 : EncodeLegal.Statement .enc256S32DnD0 := fun _ => by decide

theorem EncodeLegal.enc256S32DnD1 : EncodeLegal.Statement .enc256S32DnD1 := fun _ => by decide

theorem EncodeLegal.enc256U64UpD0 : EncodeLegal.Statement .enc256U64UpD0 := fun _ => by decide

theorem EncodeLegal.enc256U64UpD1 : EncodeLegal.Statement .enc256U64UpD1 := fun _ => by decide

theorem EncodeLegal.enc256U64DnD0 : EncodeLegal.Statement .enc256U64DnD0 := fun _ => by decide

theorem EncodeLegal.enc256U64DnD1 : EncodeLegal.Statement .enc256U64DnD1 := fun _ => by decide

theorem EncodeLegal.enc256S64UpD0 : EncodeLegal.Statement .enc256S64UpD0 := fun _ => by decide

theorem EncodeLegal.enc256S64UpD1 : EncodeLegal.Statement .enc256S64UpD1 := fun _ => by decide

theorem EncodeLegal.enc256S64DnD0 : EncodeLegal.Statement .enc256S64DnD0 := fun _ => by decide

theorem EncodeLegal.enc256S64DnD1 : EncodeLegal.Statement .enc256S64DnD1 := fun _ => by decide

theorem EncodeLegal.dec128U32UpD0 : EncodeLegal.Statement .dec128U32UpD0 := fun _ => by decide

theorem EncodeLegal.dec128U32UpD1 : EncodeLegal.Statement .dec128U32UpD1 := fun _ => by decide

theorem EncodeLegal.dec128U32DnD0 : EncodeLegal.Statement .dec128U32DnD0 := fun _ => by decide

theorem EncodeLegal.dec128U32DnD1 : EncodeLegal.Statement .dec128U32DnD1 := fun _ => by decide

theorem EncodeLegal.dec128S32UpD0 : EncodeLegal.Statement .dec128S32UpD0 := fun _ => by decide

theorem EncodeLegal.dec128S32UpD1 : EncodeLegal.Statement .dec128S32UpD1 := fun _ => by decide

theorem EncodeLegal.dec128S32DnD0 : EncodeLegal.Statement .dec128S32DnD0 := fun _ => by decide

theorem EncodeLegal.dec128S32DnD1 : EncodeLegal.Statement .dec128S32DnD1 := fun _ => by decide

theorem EncodeLegal.dec128U64UpD0 : EncodeLegal.Statement .dec128U64UpD0 := fun _ => by decide

theorem EncodeLegal.dec128U64UpD1 : EncodeLegal.Statement .dec128U64UpD1 := fun _ => by decide

theorem EncodeLegal.dec128U64DnD0 : EncodeLegal.Statement .dec128U64DnD0 := fun _ => by decide

theorem EncodeLegal.dec128U64DnD1 : EncodeLegal.Statement .dec128U64DnD1 := fun _ => by decide

theorem EncodeLegal.dec128S64UpD0 : EncodeLegal.Statement .dec128S64UpD0 := fun _ => by decide

theorem EncodeLegal.dec128S64UpD1 : EncodeLegal.Statement .dec128S64UpD1 := fun _ => by decide

theorem EncodeLegal.dec128S64DnD0 : EncodeLegal.Statement .dec128S64DnD0 := fun _ => by decide

theorem EncodeLegal.dec128S64DnD1 : EncodeLegal.Statement .dec128S64DnD1 := fun _ => by decide

theorem EncodeLegal.dec256U32UpD0 : EncodeLegal.Statement .dec256U32UpD0 := fun _ => by decide

theorem EncodeLegal.dec256U32UpD1 : EncodeLegal.Statement .dec256U32UpD1 := fun _ => by decide

theorem EncodeLegal.dec256U32DnD0 : EncodeLegal.Statement .dec256U32DnD0 := fun _ => by decide

theorem EncodeLegal.dec256U32DnD1 : EncodeLegal.Statement .dec256U32DnD1 := fun _ => by decide

theorem EncodeLegal.dec256S32UpD0 : EncodeLegal.Statement .dec256S32UpD0 := fun _ => by decide

theorem EncodeLegal.dec256S32UpD1 : EncodeLegal.Statement .dec256S32UpD1 := fun _ => by decide

theorem EncodeLegal.dec256S32DnD0 : EncodeLegal.Statement .dec256S32DnD0 := fun _ => by decide

theorem EncodeLegal.dec256S32DnD1 : EncodeLegal.Statement .dec256S32DnD1 := fun _ => by decide

theorem EncodeLegal.dec256U64UpD0 : EncodeLegal.Statement .dec256U64UpD0 := fun _ => by decide

theorem EncodeLegal.dec256U64UpD1 : EncodeLegal.Statement .dec256U64UpD1 := fun _ => by decide

theorem EncodeLegal.dec256U64DnD0 : EncodeLegal.Statement .dec256U64DnD0 := fun _ => by decide

theorem EncodeLegal.dec256U64DnD1 : EncodeLegal.Statement .dec256U64DnD1 := fun _ => by decide

theorem EncodeLegal.dec256S64UpD0 : EncodeLegal.Statement .dec256S64UpD0 := fun _ => by decide

theorem EncodeLegal.dec256S64UpD1 : EncodeLegal.Statement .dec256S64UpD1 := fun _ => by decide

theorem EncodeLegal.dec256S64DnD0 : EncodeLegal.Statement .dec256S64DnD0 := fun _ => by decide

theorem EncodeLegal.dec256S64DnD1 : EncodeLegal.Statement .dec256S64DnD1 := fun _ => by decide

theorem EncodeLegal.bound128W32 (a : Nat) : EncodeLegal.Statement (.bound128W32 a) := fun h =>
  (bound_word_legal false false a (of_decide_eq_true h)).imp id .inr

theorem EncodeLegal.bound128W64 (a : Nat) : EncodeLegal.Statement (.bound128W64 a) := fun h =>
  (bound_word_legal false true a (of_decide_eq_true h)).imp id .inr

theorem EncodeLegal.bound256W32 (a : Nat) : EncodeLegal.Statement (.bound256W32 a) := fun h =>
  (bound_word_legal true false a (of_decide_eq_true h)).imp id .inr

theorem EncodeLegal.bound256W64 (a : Nat) : EncodeLegal.Statement (.bound256W64 a) := fun h =>
  (bound_word_legal true true a (of_decide_eq_true h)).imp id .inr

end Sys2Proof.Laws
end

