-- ==== Sys2Proof/Tests/Slice0.lean ====
section
/-! SUPPORT. The model's own tests, each on one step or one function, with results from spec/95_test_vectors.md or from the
encoding tables of spec/30_encoding.md; and for every obligation with hypotheses a witness that meets them together. -/

namespace Sys2Proof.Tests

set_option Elab.async false

open Sys2Proof.Machine

/-! ### Well-formedness -/

/-- R53: a NOP's ignored bits are 28. -/
theorem test_wf_refuses_nop : (Instr.nop (2 ^ 28)).wf = false ∧ (Instr.nop (2 ^ 28 - 1)).wf = true := by decide

/-- R52: a BOUND's don't-care bits are 3. -/
theorem test_wf_refuses_bound :
    (Instr.bound128W32 8).wf = false ∧ (Instr.bound128W64 8).wf = false ∧ (Instr.bound256W32 8).wf = false ∧
      (Instr.bound256W64 8).wf = false ∧ (Instr.bound256W64 7).wf = true := by decide

/-! ### Decoding: the words are written out from R50, R56 and opcode_table.json -/

/-- R50, bit by bit: D1 DIR S W64 V OP. -/
theorem test_decode_bits :
    decodeCmd 0b100000001 = .ok .enc128U32UpD1 ∧ decodeCmd 0b110100001 = .ok .enc128U64DnD1 ∧
      decodeCmd 0b011110010 = .ok .dec256S64DnD0 ∧ decodeCmd 0b000110011 = .ok (.bound256W64 0) ∧
      decodeCmd 0b000010000 = .ok (.nop 1) := by decide

/-- opcode_table.json, rows ENC128*: the word of each row decodes to its command. -/
theorem test_decode_enc128 :
    [0x001, 0x101, 0x081, 0x181, 0x041, 0x141, 0x0C1, 0x1C1, 0x021, 0x121, 0x0A1, 0x1A1, 0x061, 0x161, 0x0E1, 0x1E1].map decodeCmd =
      [.enc128U32UpD0, .enc128U32UpD1, .enc128U32DnD0, .enc128U32DnD1,
        .enc128S32UpD0, .enc128S32UpD1, .enc128S32DnD0, .enc128S32DnD1,
        .enc128U64UpD0, .enc128U64UpD1, .enc128U64DnD0, .enc128U64DnD1,
        .enc128S64UpD0, .enc128S64UpD1, .enc128S64DnD0, .enc128S64DnD1].map Decoded.ok := by decide

/-- opcode_table.json, rows ENC256*: the word of each row decodes to its command. -/
theorem test_decode_enc256 :
    [0x011, 0x111, 0x091, 0x191, 0x051, 0x151, 0x0D1, 0x1D1, 0x031, 0x131, 0x0B1, 0x1B1, 0x071, 0x171, 0x0F1, 0x1F1].map decodeCmd =
      [.enc256U32UpD0, .enc256U32UpD1, .enc256U32DnD0, .enc256U32DnD1,
        .enc256S32UpD0, .enc256S32UpD1, .enc256S32DnD0, .enc256S32DnD1,
        .enc256U64UpD0, .enc256U64UpD1, .enc256U64DnD0, .enc256U64DnD1,
        .enc256S64UpD0, .enc256S64UpD1, .enc256S64DnD0, .enc256S64DnD1].map Decoded.ok := by decide

/-- opcode_table.json, rows DEC128*: the word of each row decodes to its command. -/
theorem test_decode_dec128 :
    [0x002, 0x102, 0x082, 0x182, 0x042, 0x142, 0x0C2, 0x1C2, 0x022, 0x122, 0x0A2, 0x1A2, 0x062, 0x162, 0x0E2, 0x1E2].map decodeCmd =
      [.dec128U32UpD0, .dec128U32UpD1, .dec128U32DnD0, .dec128U32DnD1,
        .dec128S32UpD0, .dec128S32UpD1, .dec128S32DnD0, .dec128S32DnD1,
        .dec128U64UpD0, .dec128U64UpD1, .dec128U64DnD0, .dec128U64DnD1,
        .dec128S64UpD0, .dec128S64UpD1, .dec128S64DnD0, .dec128S64DnD1].map Decoded.ok := by decide

/-- opcode_table.json, rows DEC256*: the word of each row decodes to its command. -/
theorem test_decode_dec256 :
    [0x012, 0x112, 0x092, 0x192, 0x052, 0x152, 0x0D2, 0x1D2, 0x032, 0x132, 0x0B2, 0x1B2, 0x072, 0x172, 0x0F2, 0x1F2].map decodeCmd =
      [.dec256U32UpD0, .dec256U32UpD1, .dec256U32DnD0, .dec256U32DnD1,
        .dec256S32UpD0, .dec256S32UpD1, .dec256S32DnD0, .dec256S32DnD1,
        .dec256U64UpD0, .dec256U64UpD1, .dec256U64DnD0, .dec256U64DnD1,
        .dec256S64UpD0, .dec256S64UpD1, .dec256S64DnD0, .dec256S64DnD1].map Decoded.ok := by decide

/-- opcode_table.json, rows BOUND*; R52: bits 8:6 are don't-care. -/
theorem test_decode_bound :
    [0x003, 0x023, 0x013, 0x033, 0x1C3].map decodeCmd =
      [.bound128W32 0, .bound128W64 0, .bound256W32 0, .bound256W64 0, .bound128W32 7].map Decoded.ok := by decide

/-- opcode_table.json, row NOP; R53: bits 31:4 are ignored. -/
theorem test_decode_nop :
    decodeCmd 0 = .ok (.nop 0) ∧ decodeCmd 0xFFFFFFF0 = .ok (.nop 0xFFFFFFF) := by decide

/-- V-CMD rows 1 to 3, R52: reserved `OP`, reserved bits, and that the `OP` check comes first. -/
theorem test_decode_illegal :
    [0x004, 0x00F, 0x301, 0x203, 0xFFFFFFFF].map decodeCmd =
      [.rejected .reservedOp, .rejected .reservedOp, .rejected .reservedBits, .rejected .reservedBits,
        .rejected .reservedOp] := by decide

/-- R49: three bytes are no command word. -/
theorem test_decode_truncated : decodeBytes [1, 0, 0] = .rejected .truncated := by decide

/-- V-CMD, encodings: R56 read the other way. -/
theorem test_encode_words :
    encode .enc128U32UpD1 = 0x101 ∧ encode .dec128U32UpD1 = 0x102 ∧ encode .enc256S32DnD0 = 0x0D1 ∧
      encode .dec256S64DnD0 = 0x0F2 ∧ encode .enc256U64DnD1 = 0x1B1 ∧ encode (.bound256W64 0) = 0x033 ∧
      encode (.nop 1) = 0x10 := by decide

/-- A row's word, as the host asks for it, decodes to the row's command. -/
theorem test_decodeTableWord : decodeTableWord 32 0x1B1 = some .enc256U64DnD1 ∧ decodeTableWord 32 4 = none := by decide

/-! ### The functional units -/

/-- A variant without signedness. -/
def variant (wide w64 : Bool) (dir : Dir) (d1 : Bool) : Variant := ⟨wide, w64, false, dir, d1⟩

/-- V-DELTA rows 1 to 4. -/
theorem test_delta_32 :
    deltas (variant false false .up true) [10, 11, 13] = [0, 0, 1] ∧
      deltas (variant false false .up false) [5, 3] = [0, 0xFFFFFFFE] ∧
      deltas (variant false false .up true) [7, 7] = [0, 0xFFFFFFFF] ∧
      deltas (variant false false .dn false) [100, 90, 90] = [0, 0xA, 0] := by decide +kernel

/-- V-DELTA rows 6 to 8. -/
theorem test_delta_64 :
    deltas (variant false true .up false) [2 ^ 64 - 1, 0] = [0, 1] ∧
      deltas (variant false true .dn false) [0, 2 ^ 64 - 1] = [0, 1] ∧
      deltas (variant false true .dn true) [3, 3] = [0, 0xFFFFFFFFFFFFFFFF] := by decide +kernel

/-- V-BW rows 3, 4, 6, 7, 9 and 11: on both sides of the exception budget. -/
theorem test_selectB :
    selectB (List.replicate 124 3 ++ List.replicate 4 1000) 32 = 2 ∧
      selectB (List.replicate 123 3 ++ List.replicate 5 1000) 32 = 10 ∧
      selectB (List.replicate 31 0 ++ [2 ^ 32 - 1]) 32 = 0 ∧ selectB (List.replicate 30 0 ++ [2 ^ 32 - 1]) 32 = 32 ∧
      selectB (List.replicate 247 1 ++ List.replicate 9 (2 ^ 20)) 32 = 21 ∧
      selectB (List.replicate 31 7 ++ [2 ^ 63]) 64 = 3 := by decide +kernel

/-- V-PACK rows 1, 4 and 7: several values in a lane word, a value across two lane words, a lane's order. -/
theorem test_pack :
    pack [1, 2, 3, 4, 5] 3 4 = [0x29, 0, 0, 0, 2, 0, 0, 0, 3, 0, 0, 0, 4, 0, 0, 0] ∧
      pack [2 ^ 33 + 5, 7, 0, 1] 34 4 =
        [5, 0, 0, 0, 7, 0, 0, 0, 0, 0, 0, 0, 1, 0, 0, 0, 2, 0, 0, 0, 0, 0, 0, 0, 0, 0, 0, 0, 0, 0, 0, 0] ∧
      pack (List.range 8) 4 4 = [0x40, 0, 0, 0, 0x51, 0, 0, 0, 0x62, 0, 0, 0, 0x73, 0, 0, 0] := by decide +kernel

/-- V-PACK row 2 and R85: unpacking 8 lanes' bytes with 4 lanes gives `1,2,3,4,0`. -/
theorem test_unpack_other_lanes :
    unpack (pack [1, 2, 3, 4, 5] 3 8) 3 8 5 = [1, 2, 3, 4, 5] ∧
      unpack (pack [1, 2, 3, 4, 5] 3 8) 3 4 5 = [1, 2, 3, 4, 0] := by decide +kernel

/-- V-PATCH rows 1, 3 and 4: the lists of one exception each. -/
theorem test_patchEncode :
    patchEncode [0, 0, 0, 0, 0, 1000] 2 32 = [1, 5, 0xFA, 0, 0, 0] ∧
      patchEncode [0, 300] 5 64 = [1, 1, 9, 0, 0, 0, 0, 0, 0, 0] ∧
      patchEncode [0, 0, 0, 2 ^ 32 - 1] 31 32 = [1, 3, 1] := by decide +kernel

/-! ### The commands: one execution each -/

/-- Two channels, the wide datapath, and a window away from 0. -/
def params : Params := { hasWide := true, nch := 2, addrWidth := 64, regBase := 0x10000 }

/-- A channel that runs a command word on latched operands. -/
def running (w len : Word) (src dst srcCap dstCap : DWord) : Chan :=
  { Chan.blank with cmd := w, eng := .busy, latch := ⟨w, len, src, dst, srcCap, dstCap⟩ }

/-- A machine whose channel 0 is as given. -/
def machine (c : Chan) (m : Memory) : State := { State.resetWith params with chans := [c, .blank], mem := m }

/-- What a completion left in channel 0: `STATUS` and the low half of `RESULT`. -/
def ended : Host.Outcome State Fault Refusal → Option (Word × Word)
  | .next s => some (statusWord (s.chan 0), (s.chan 0).resultLo)
  | _ => none

/-- The bytes that stand at an address after a completion, with `STATUS` before them. -/
def endedWith (a n : Nat) : Host.Outcome State Fault Refusal → Option (Word × List Byte)
  | .next s => some (statusWord (s.chan 0), s.mem.read a n)
  | _ => none

/-- An encode of `E`-byte elements from 0x1000 to 0x2000. -/
def encOf (i : Instr) (size : Nat) (xs : List Nat) : Host.Outcome State Fault Refusal :=
  exec i (machine (running (encode i) (BitVec.ofNat 32 xs.length) 0x1000 0x2000 0 0xC00)
    (Memory.write [] 0x1000 (elemBytes size xs)))

/-- A decode of a stream from 0x1000 to 0x2000 with `SRC_CAP` as given. -/
def decOf (i : Instr) (n : Word) (cap : DWord) (bs : List Byte) : Host.Outcome State Fault Refusal :=
  exec i (machine (running (encode i) n 0x1000 0x2000 cap 0xC00) (Memory.write [] 0x1000 bs))

/-- V-FRAME rows 2 and 3: `RESULT`, and the bytes at `DST` with one byte past them. -/
theorem test_enc_up :
    ended (encOf .enc128U32UpD1 4 (List.range 10)) = some (0x002, 7) ∧
      endedWith 0x2000 8 (encOf .enc128U32UpD1 4 (List.range 10)) = some (0x002, [0, 0, 0, 0, 0, 10, 0, 0]) ∧
      endedWith 0x2000 23 (encOf .enc128U32UpD0 4 (List.range 10)) =
        some (0x002, [0, 0, 0, 0, 1, 10, 0, 6, 0, 0, 0, 7, 0, 0, 0, 3, 0, 0, 0, 3, 0, 0, 0]) := by decide +kernel

/-- V-FRAME row 4: 64-bit elements, decreasing by at least 1. -/
theorem test_enc_down64 :
    endedWith 0x2000 27 (encOf .enc128U64DnD1 8 [1000, 990, 985, 984]) =
      some (0x002, [0xE8, 3, 0, 0, 0, 0, 0, 0, 4, 4, 0, 0, 0, 0, 0, 9, 0, 0, 0, 4, 0, 0, 0, 0, 0, 0, 0]) := by
  decide +kernel

/-- V-FRAME row 6: a block with an exception. -/
theorem test_enc_exception :
    endedWith 0x2000 29
        (encOf .enc128U32UpD0 4 ((List.range 40).map fun g => if g < 5 then 2 * g else 2 * g + 998)) =
      some (0x002, [0, 0, 0, 0, 0x82, 0x28, 0, 0xA8, 0xAA, 0x0A, 0, 0xA2, 0xAA, 0x0A, 0, 0xAA, 0xAA, 0x0A, 0,
        0xAA, 0xAA, 0x0A, 0, 1, 5, 0xFA, 0, 0, 0]) := by decide +kernel

/-- V-FRAME row 8: the 256 variant's eight lanes. -/
theorem test_enc_wide :
    endedWith 0x2000 39 (encOf .enc256U32UpD0 4 (List.range 10)) =
      some (0x002, [0, 0, 0, 0, 1, 10, 0, 2, 0, 0, 0, 3, 0, 0, 0, 1, 0, 0, 0, 1, 0, 0, 0, 1, 0, 0, 0, 1, 0, 0, 0,
        1, 0, 0, 0, 1, 0, 0, 0]) := by decide +kernel

/-- V-FRAME row 7: two blocks, and the delta across the boundary. -/
theorem test_stream_two_blocks :
    stream (variant false false .up true) ((List.range 129).map (2 * ·)) =
      [0, 0, 0, 0, 1, 0x80, 0, 0xFE, 0xFF, 0xFF, 0xFF] ++ List.replicate 12 0xFF ++ [1, 1, 0, 1, 0, 0, 0]
        ++ List.replicate 12 0 := by decide +kernel

/-- S1: one element, in a signed wide variant too. -/
theorem test_enc_single :
    endedWith 0x2000 8 (encOf .enc256S32DnD1 4 [0]) = some (0x002, [0, 0, 0, 0, 0, 1, 0, 0]) ∧
      ended (encOf .enc128S64UpD0 8 [0]) = some (0x002, 11) := by decide +kernel

/-- V-DEC rows 10 and 11: trailing bytes are not read, and slot 0 of block 0 is ignored. -/
theorem test_dec_ok :
    ended (decOf .dec128U32UpD1 10 9 [0, 0, 0, 0, 0, 10, 0, 0xFF, 0xFF]) = some (0x002, 7) ∧
      endedWith 0x2000 40 (decOf .dec128U32UpD1 10 9 [0, 0, 0, 0, 0, 10, 0, 0xFF, 0xFF]) =
        some (0x002, elemBytes 4 (List.range 10)) ∧
      endedWith 0x2000 40 (decOf .dec128U32UpD1 10 23 ([7, 0, 0, 0, 1, 10, 0, 1] ++ List.replicate 15 0)) =
        some (0x002, elemBytes 4 ((List.range 10).map (· + 7))) := by decide +kernel

/-- V-DEC rows 8 and 9: an empty exception list, and a repeated position, whose high parts are ORed. -/
theorem test_dec_exceptions :
    ended (decOf .dec128U32UpD1 10 8 [0, 0, 0, 0, 0x80, 10, 0, 0]) = some (0x002, 8) ∧
      endedWith 0x2000 40
          (decOf .dec128U32UpD1 10 18 [0, 0, 0, 0, 0x80, 10, 0, 2, 3, 1, 0, 0, 0, 3, 2, 0, 0, 0]) =
        some (0x002, elemBytes 4 [0, 1, 2, 6, 7, 8, 9, 10, 11, 12]) := by decide +kernel

/-- V-DEC row 12: a stream of the 256 variant that passes the checks of the 128 variant. -/
theorem test_dec_foreign :
    endedWith 0x2000 40
        (decOf .dec128U32UpD0 10 39 ([0, 0, 0, 0, 1, 10, 0, 2, 0, 0, 0, 3, 0, 0, 0, 1, 0, 0, 0, 1, 0, 0, 0, 1, 0, 0, 0,
          1, 0, 0, 0, 1, 0, 0, 0, 1, 0, 0, 0])) =
      some (0x002, elemBytes 4 [0, 1, 2, 3, 4, 5, 5, 5, 5, 5]) := by decide +kernel

/-- `STATUS` after a completion. -/
def statusOf : Host.Outcome State Fault Refusal → Option Word
  | .next s => some (statusWord (s.chan 0))
  | _ => none

/-- V-DEC rows 1 to 7: every malformation. -/
theorem test_dec_malformed :
    [(decOf .dec128U32UpD1 10 6 [0, 0, 0, 0, 0, 10, 0]), (decOf .dec128U32UpD1 10 3 [0, 0, 0, 0, 0, 10, 0]),
      (decOf .dec128U32UpD1 10 7 [0, 0, 0, 0, 0x21, 10, 0]), (decOf .dec128U32UpD1 10 7 [0, 0, 0, 0, 0, 9, 0]),
      (decOf .dec128U32UpD1 10 13 [0, 0, 0, 0, 0x80, 10, 0, 1, 10, 5, 0, 0, 0]),
      (decOf .dec128U32UpD1 10 12 [0, 0, 0, 0, 0x80, 10, 0, 1, 9, 5, 0, 0]),
      (decOf .dec128U32UpD1 10 11 [0, 0, 0, 0, 0x20, 10, 0, 1, 0, 0, 0])].map statusOf =
      List.replicate 7 (some 0x072) := by decide +kernel

/-- V-CMD: the operands of the pre-check rows, with the changes that a row makes. -/
def precheckRow (i : Instr) (wide : Bool) (len : Word) (src dst srcCap dstCap : DWord) : Option (Word × Word) :=
  ended (exec i { machine (running (encode i) len src dst srcCap dstCap) [] with params := { params with hasWide := wide } })

/-- V-CMD rows 6 and 8 to 13: each pre-check, and that the capability comes before the capacity. -/
theorem test_prechecks :
    precheckRow .enc256U32UpD1 false 10 0x1000 0x2000 0 75 = some (0x022, 0) ∧
      precheckRow .enc128U32UpD1 true 10 0xFFFFFFFFFFFFFFF8 0x2000 0 75 = some (0x032, 0) ∧
      precheckRow .enc128U32UpD1 true 10 0x1000 0x2000 0 74 = some (0x042, 0) ∧
      precheckRow .enc128U32UpD1 true 10 0x1000 0x1020 0 75 = some (0x052, 0) ∧
      precheckRow .enc256U32UpD1 false 10 0x1000 0x2000 0 0 = some (0x022, 0) ∧
      precheckRow .enc128U32UpD1 true 0 0x1000 0x2000 0 0 = some (0x002, 0) ∧
      precheckRow .dec128U32UpD1 true 10 0x1000 0x2000 7 39 = some (0x042, 0) := by decide +kernel

/-- V-CMD rows 4 and 7, and the WCB table at 10, 129 and 2^32-1: BOUND has no capability check. -/
theorem test_bound :
    precheckRow (.bound128W32 7) false 10 0 0 0 0 = some (0x002, 75) ∧
      precheckRow (.bound256W32 4) false 10 0 0 0 0 = some (0x002, 107) ∧
      precheckRow (.bound128W64 0) true 129 0 0 0 0 = some (0x002, 1086) ∧
      precheckRow (.bound256W64 0) true 129 0 0 0 0 = some (0x002, 1131) ∧
      wcb false true (2 ^ 32 - 1) = 34460401704 ∧ wcb true true (2 ^ 32 - 1) = 34410070104 := by decide +kernel

/-! ### One step of the machine -/

/-- V-CMD rows 1 and 3: an illegal word, run as the first command after reset, ends with `ERR_ILLEGAL`. -/
theorem test_step_illegal :
    statusOf (step (State.reset.withFetchWord 32 4)) = some 0x012 ∧
      statusOf (step (State.reset.withFetchWord 32 0x301)) = some 0x012 := by decide +kernel

/-- V-CMD row 12: ENC with `LEN = 0` as the first command after reset succeeds and holds its word in `CMD`. -/
theorem test_step_first_command :
    (match step (State.reset.withFetchWord 32 0x101) with
      | .next s => ((s.chan 0).cmd, statusWord (s.chan 0))
      | _ => (0, 0)) = (0x101, 0x002) := by decide +kernel

/-- The bytes that a read of a register gives after one step. -/
def busRead (s : State) (i : Input) : Option (List Byte) :=
  match step { s with inputs := [i] } with
  | .next t => some t.busData
  | _ => none

/-- V-REG rows 1, 2, 3, 7 and 10: `ID`, `CAP`, a 16-bit read, and a channel that does not exist. -/
theorem test_reg_reads :
    busRead State.reset (.regRead 0 4) = some [0x31, 0x44, 0x50, 0x54] ∧
      busRead State.reset (.regRead 4 4) = some [0x13, 0x20, 0, 0] ∧
      busRead (State.resetWith { Config.reference with hasWide := false }) (.regRead 4 4) = some [0x12, 0x20, 0, 0] ∧
      busRead State.reset (.regRead 0 2) = some [0, 0] ∧ busRead State.reset (.regRead 0x88 4) = some [0, 0, 0, 0] := by
  decide +kernel

/-- V-REG row 9 and R23: writing 2 to `STATUS` clears `DONE` only. -/
theorem test_status_w1c :
    statusOf (step { machine { Chan.blank with done := true, err := 4, dropped := true } [] with
      inputs := [wrReg params 0 .status 2] }) = some 0x140 := by decide +kernel

/-- R22, R23: a command written to a busy channel sets `DROPPED`; a NOP does not. -/
theorem test_dropped :
    statusOf (step { machine (running 0x101 0 0 0 0 0) [] with inputs := [wrReg params 0 .cmd 3] }) = some 0x101 ∧
      statusOf (step { machine (running 0x101 0 0 0 0 0) [] with inputs := [wrReg params 0 .cmd 0x30] }) = some 0x001 := by
  decide +kernel

/-- R33: the address space ends at `2^ADDR_WIDTH`. -/
theorem test_no_such_address :
    (match step { State.reset with inputs := [.memWrite (2 ^ 64 - 1) [1, 2]] } with
      | .fault _ => true
      | _ => false) = true := by decide +kernel

/-! ### Witnesses: for each statement with hypotheses, a state and operands that meet them together -/

/-- The variant 128/32, increasing, minimum step 1. -/
def v0 : Variant := variant false false .up true

/-- One element, 5, at 0x1000. -/
def mem1 : Memory := Memory.write [] 0x1000 (elemBytes 4 [5])

/-- An encode of one element from 0x1000 to 0x2000 with exactly the room it needs (R95). -/
def encState : State := machine (running 0x101 1 0x1000 0x2000 0 39) mem1

/-- A decode of one element, from the 7-byte stream of S1 with baseline 5, with exactly the room it needs. -/
def decState : State := machine (running 0x102 1 0x1000 0x2000 7 4) (Memory.write [] 0x1000 [5, 0, 0, 0, 0, 1, 0])

/-- A state with an agenda. -/
def withInputs (s : State) (l : List Input) : State := { s with inputs := l }

/-- A state with the platform's answers. -/
def withPort (s : State) (l : List Region) : State := { s with port := l }

/-- The state after a step or a command; the state itself where there is none. -/
def nextOr (s : State) : Host.Outcome State Fault Refusal → State
  | .next t => t
  | _ => s

/-- The conditions of an encode, decided together. -/
theorem encReady_of {v : Variant} {s : State}
    (h : s.cur < s.chans.length ∧ (v.wide = true → s.params.hasWide = true) ∧
      (encIn v s.curChan.latch).valid s.params.addrWidth = true ∧ (encOut s.curChan.latch).valid s.params.addrWidth = true ∧
      v.wcb s.curChan.latch.count ≤ s.curChan.latch.dstCap.toNat ∧
      (encIn v s.curChan.latch).meets (encOut s.curChan.latch) = false ∧
      onDevice s.port (encIn v s.curChan.latch) = false ∧ onDevice s.port (encOut s.curChan.latch) = false) :
    EncReady v s :=
  ⟨h.1, h.2.1, h.2.2.1, h.2.2.2.1, h.2.2.2.2.1, h.2.2.2.2.2.1, h.2.2.2.2.2.2.1, h.2.2.2.2.2.2.2⟩

/-- The conditions of a decode, decided together. -/
theorem decReady_of {v : Variant} {s : State}
    (h : s.cur < s.chans.length ∧ (v.wide = true → s.params.hasWide = true) ∧
      (decIn s.curChan.latch).valid s.params.addrWidth = true ∧ (decOut v s.curChan.latch).valid s.params.addrWidth = true ∧
      s.curChan.latch.count * v.size ≤ s.curChan.latch.dstCap.toNat ∧
      (decIn s.curChan.latch).meets (decOut v s.curChan.latch) = false ∧
      onDevice s.port (decIn s.curChan.latch) = false ∧ onDevice s.port (decOut v s.curChan.latch) = false) :
    DecReady v s :=
  ⟨h.1, h.2.1, h.2.2.1, h.2.2.2.1, h.2.2.2.2.1, h.2.2.2.2.2.1, h.2.2.2.2.2.2.1, h.2.2.2.2.2.2.2⟩

theorem encReady : EncReady v0 encState := encReady_of (by decide +kernel)

theorem decReady : DecReady v0 decState := decReady_of (by decide +kernel)

theorem test_witness_DecodeOfEncode :
    (Instr.nop (2 ^ 28 - 1)).wf = true ∧ (Instr.bound256W64 7).wf = true ∧ Instr.enc256S64DnD1.wf = true := by decide

theorem test_witness_EncodeOfDecode :
    decodeCmd 0x1F1 = .ok .enc256S64DnD1 ∧ decodeCmd 0xFFFFFFF0 = .ok (.nop 0xFFFFFFF) := by decide

/-- The three clauses: the engine's run, RUN, and a NOP. -/
theorem test_witness_StepRunsTheDecodedCommand :
    ((withInputs encState [.engine 0]).chan 0).eng = .busy ∧
      decodeCmd ((withInputs encState [.engine 0]).chan 0).latch.cmd = .ok .enc128U32UpD1 ∧
      encState.chans.length = encState.params.nch ∧ 1 < encState.params.nch ∧ (encState.chan 1).eng = .idle ∧
      opField 0x102 ≠ 0 ∧ decodeCmd 0x102 = .ok .dec128U32UpD1 ∧ decodeCmd 0x30 = .ok (.nop 3) := by decide +kernel

/-- Both kinds of illegal word, at the boundary values of their fields. -/
theorem test_witness_IllegalWord :
    ([0x004, 0x00F, 0x201, 0x203] : List Word).all (fun w =>
      ((machine (running w 1 0 0 0 0) []).chan 0).busy &&
        decide (4 ≤ w.toNat % 16 ∨ (1 ≤ w.toNat % 16 ∧ w.toNat / 512 ≠ 0))) = true := by decide +kernel

/-- A channel that is legal: every clause is decided. -/
theorem running_inv (w : Word) (h : opField w ≠ 0) :
    Chan.Inv 64 { running w 1 0x1000 0x2000 0 39 with cmd := w } where
  err := Nat.zero_le 7
  srcHi := by simp [running, Chan.blank]
  dstHi := by simp [running, Chan.blank]
  latchSrc := by simp [running]
  latchDst := by simp [running]
  busyFlags := fun _ => ⟨rfl, rfl, rfl, rfl⟩
  busyWord := fun _ => ⟨rfl, h⟩
  idleHidden := fun h => nomatch h

/-- A legal state with a busy channel. -/
theorem encState_inv : encState.Inv where
  params := by decide
  chans := by decide
  mem := by decide +kernel
  chan := by
    intro c hc
    simp only [encState, machine, List.mem_cons, List.not_mem_nil, or_false] at hc
    rcases hc with rfl | rfl
    · exact running_inv 0x101 (by decide)
    · exact ⟨by decide, by decide, by decide, by decide, by decide, by decide, by decide, by decide⟩

theorem test_witness_StepKeepsInvariant :
    encState.Inv ∧ ∃ t, step encState = .next t := ⟨encState_inv, _, rfl⟩

/-- The parameters at both ends of their ranges (R8). -/
theorem test_witness_ResetMeetsInvariant :
    Params.Legal ⟨false, 1, 32, 0⟩ ∧ Params.Legal ⟨true, 15, 64, 0xFFFFF000⟩ := by decide

theorem test_witness_BusyChannelsCompleteInTurn :
    encState.Inv ∧ encState.inputs = [] ∧ (∃ c ∈ encState.chans, c.eng = .busy) ∧ ∀ g ∈ encState.port, g.device = false :=
  ⟨encState_inv, rfl, ⟨_, .head _, rfl⟩, by decide⟩

theorem test_witness_InnerStep :
    (withInputs encState [.tick 0]).inputs = [.tick 0] ∧
      ((nextOr encState (step (withInputs encState [.tick 0]))).chan 0).prog.block = 1 := by decide +kernel

/-- An encode of 129 elements, which are two blocks. -/
def encTwo : State := machine (running 0x101 129 0x1000 0x2000 0 2000) mem1

/-- A decode of 129 elements: two blocks of width 0. -/
def decTwo : State :=
  machine (running 0x102 129 0x1000 0x3000 10 516) (Memory.write [] 0x1000 [0, 0, 0, 0, 0, 0x80, 0, 0, 1, 0])

theorem encRunning : EncRunning v0 encTwo 0 := ⟨rfl, by decide, rfl, encReady_of (by decide +kernel)⟩

theorem decRunning : DecRunning v0 decTwo 0 := ⟨rfl, by decide, rfl, decReady_of (by decide +kernel)⟩

/-- Block 0 of each, and for the decode every number of blocks up to both. -/
theorem test_witness_RunningBaseline :
    EncRunning v0 (withInputs encTwo [.tick 0]) 0 ∧ (encTwo.chan 0).prog.block + 1 < blockCount 129 v0.bs ∧
      portReads encTwo.port (encIn v0 (encTwo.chan 0).latch) = true ∧
      DecRunning v0 (withInputs decTwo [.tick 0, .tick 0]) 0 ∧ (decTwo.chan 0).prog = .start ∧
      (∃ xs q, decOutcome v0 { withInputs decTwo [.tick 0, .tick 0] with cur := 0 } = .done xs q false) ∧
      2 ≤ blockCount (decTwo.chan 0).latch.count v0.bs := by
  refine ⟨⟨rfl, encRunning.word, rfl, encReady_of (by decide +kernel)⟩, by decide, by decide, ⟨rfl, decRunning.word, rfl,
    decReady_of (by decide +kernel)⟩, rfl, ?_, by decide⟩
  have h : (match decOutcome v0 { withInputs decTwo [.tick 0, .tick 0] with cur := 0 } with
      | .done _ _ false => true
      | _ => false) = true := by decide +kernel
  split at h
  · exact ⟨_, _, by assumption⟩
  · cases h

theorem test_witness_EncodeProgress :
    EncRunning v0 (withInputs encTwo [.tick 0, .tick 0]) 0 ∧ (encTwo.chan 0).prog = .start ∧
      portReads encTwo.port (encIn v0 (encTwo.chan 0).latch) = true ∧
      List.replicate (blockCount (encTwo.chan 0).latch.count v0.bs) (Input.tick 0) = [.tick 0, .tick 0] :=
  ⟨⟨rfl, encRunning.word, rfl, encReady_of (by decide +kernel)⟩, rfl, by decide, by decide⟩

/-- Two blocks of the decode: 10 bytes read, 129 elements, and the running baseline is the last, 128. -/
theorem test_decode_progress :
    ((nextOr decTwo (stepN 2 (withInputs decTwo [.tick 0, .tick 0]))).chan 0).prog.elem = 129 ∧
      ((nextOr decTwo (stepN 2 (withInputs decTwo [.tick 0, .tick 0]))).chan 0).prog.offset = 10 ∧
      ((nextOr decTwo (stepN 2 (withInputs decTwo [.tick 0, .tick 0]))).chan 0).prog.base = 128 := by decide +kernel

/-- The first and the last channel of a window. -/
theorem test_witness_RegisterMap :
    Params.Legal ⟨true, 15, 64, 0x1000⟩ ∧ 0 < (Params.mk true 15 64 0x1000).nch ∧ 14 < (Params.mk true 15 64 0x1000).nch ∧
      slotAt 15 (slotOffset 14 .resultHi) = .chan 14 .resultHi := by decide

theorem test_witness_IdAndCapRead : encState.params.Legal ∧ State.reset.params.Legal := by decide

theorem test_witness_IdAndCapNeverChange :
    ∃ t, step (withInputs encState [.regWrite 0x10004 [0, 0, 0, 0]]) = .next t := ⟨_, rfl⟩

/-- The ends of the window, an unaligned offset and a 64-bit access. -/
theorem test_witness_RegisterAccessWidths :
    (withInputs encState [.regRead (encState.params.regBase + 4092) 4]).inputs = [.regRead 0x10FFC 4] ∧
      busRead encState (.regRead 0x10002 4) = some [0, 0, 0, 0] ∧
      busRead encState (.regRead 0x10000 8) = some (List.replicate 8 0) := by decide +kernel

/-- Each range of reserved offsets at its ends, with two channels. -/
theorem test_witness_ReservedOffsets :
    ∀ off ∈ [8, 0x3C, 0x4C, 0x78, 0x7C, 0x8C, 0xBC, 0xC0, 0xFFC],
      off < 4096 ∧ off % 4 = 0 ∧
        (8 ≤ off ∧ off < 0x40 ∨ 0x40 * (encState.params.nch + 1) ≤ off ∨
          0x40 ≤ off ∧ (off % 0x40 = 0x0C ∨ off % 0x40 = 0x38 ∨ off % 0x40 = 0x3C)) := by decide

/-- A NOP written to a busy channel, a command written to a busy and to an idle one. -/
theorem test_witness_CommandWrites :
    encState.params.Legal ∧ encState.chans.length = encState.params.nch ∧ 0 < encState.params.nch ∧
      1 < encState.params.nch ∧ (0xFFFFFFF0 : Word).toNat % 16 = 0 ∧ (0x101 : Word).toNat % 16 ≠ 0 ∧
      (encState.chan 0).eng = .busy ∧ (encState.chan 1).eng = .idle ∧
      (withInputs encState [wrReg encState.params 1 .cmd 0x101]).inputs = [wrReg encState.params 1 .cmd 0x101] := by
  decide +kernel

/-- `SRC_HI` keeps only the implemented bits, with `ADDR_WIDTH = 40`. -/
theorem test_witness_OperandRegisters :
    Params.Legal ⟨true, 1, 40, 0⟩ ∧
      ((nextOr .reset (step (withInputs (State.resetWith ⟨true, 1, 40, 0⟩)
        [wrReg ⟨true, 1, 40, 0⟩ 0 .srcHi 0xFFFFFFFF]))).chan 0).srcHi = 0xFF ∧
      ((nextOr .reset (step (withInputs (State.resetWith ⟨true, 1, 40, 0⟩)
        [wrReg ⟨true, 1, 40, 0⟩ 0 .len 0xFFFFFFFF]))).chan 0).len = 0xFFFFFFFF := by decide +kernel

/-- An operand write, and a command that channel 1 accepts, whose output range meets channel 0's. -/
theorem test_witness_RegisterWritesLeaveRunningCommand :
    (encState.chan 0).eng = .busy ∧
      (∃ t, step (withInputs encState [.regWrite (0x10000 + slotOffset 0 .len) [9, 0, 0, 0]]) = .next t ∧
        (t.chan 0).raced = false) ∧
      (let s := encState.setChan 1 { Chan.blank with len := 1, srcLo := 0x5000, dstLo := 0x2000, dstCapLo := 39 }
       (s.chan 1).eng = .idle ∧ (s.chan 0).eng = .busy ∧
         ((nextOr s (step (withInputs s [wrReg s.params 1 .cmd 0x101]))).chan 0).raced = true) :=
  ⟨by decide, ⟨_, rfl, by decide⟩, by decide +kernel⟩

/-- A reset while an encode runs: an address outside its write range, which is 39 bytes long. -/
theorem test_witness_Reset :
    (withInputs encState [.reset]).inputs = [.reset] ∧
      ∀ c ∈ encState.chans, c.eng = .busy → (abandonedRange c.latch).has 0x2027 = false := by decide +kernel

/-- R125 lists `[DST, DST + WCB(N))` for every encode in progress: one with `DST_CAP = 0`, which a pre-check would end,
leaves the 39 bytes as a draw too. -/
theorem test_reset_draws_whole_range :
    let c := running 0x101 1 0x1000 0x2000 0 0
    ((machine c mem1).abandon c).mem.read 0x2000 39 = (machine c mem1).freeBytes 39 :=
  ((abandon_spec _ _ (by decide +kernel)).2 rfl).1

theorem test_witness_BoundCompletes : encState.cur < encState.chans.length := by decide

theorem test_witness_EncodeCompletes :
    EncReady v0 encState ∧ encState.curChan.raced = false ∧ encState.mem.wf = true ∧
      portReads encState.port (encIn v0 encState.curChan.latch) = true ∧
      portWrites encState.port { base := encState.curChan.latch.dst.toNat, size := (encOutput v0 encState).length } = true :=
  ⟨encReady, by decide, by decide +kernel, by decide, by decide⟩

/-- An encode's operands, for the pre-checks. -/
def encWith (wide : Bool) (src dst dstCap : DWord) : State :=
  { machine (running 0x101 10 src dst 0 dstCap) [] with params := { params with hasWide := wide } }

/-- The four clauses, in their order (V-CMD rows 6, 8, 9 and 10). -/
theorem test_witness_EncodePreChecks :
    (let s := encWith false 0x1000 0x2000 75; (variant true false .up true).wide = true ∧ s.params.hasWide = false) ∧
    (let s := encWith true 0xFFFFFFFFFFFFFFF8 0x2000 75; (encIn v0 s.curChan.latch).valid s.params.addrWidth = false) ∧
    (let s := encWith true 0x1000 0x2000 74
     (encIn v0 s.curChan.latch).valid s.params.addrWidth = true ∧ (encOut s.curChan.latch).valid s.params.addrWidth = true ∧
      s.curChan.latch.dstCap.toNat < v0.wcb s.curChan.latch.len.toNat) ∧
    (let s := encWith true 0x1000 0x1027 75
     (encIn v0 s.curChan.latch).valid s.params.addrWidth = true ∧ (encOut s.curChan.latch).valid s.params.addrWidth = true ∧
      ¬s.curChan.latch.dstCap.toNat < v0.wcb s.curChan.latch.len.toNat ∧
      (encIn v0 s.curChan.latch).meets (encOut s.curChan.latch) = true) := by decide +kernel

/-- An address range that answers reads, writes, or both with a bus error. -/
def badRange (base size : Nat) (r w : Bool) : List Region := [⟨⟨base, size⟩, r, w, false⟩]

/-- The last byte of the input, and the last byte of the output. -/
theorem test_witness_EncodeBusError :
    EncReady v0 (withPort encState (badRange 0x1003 1 true false)) ∧
      portReads (badRange 0x1003 1 true false) (encIn v0 encState.curChan.latch) = false ∧
      EncReady v0 (withPort encState (badRange 0x2006 1 false true)) ∧
      portWrites (badRange 0x2006 1 false true)
        { base := encState.curChan.latch.dst.toNat, size := (encOutput v0 encState).length } = false := by
  refine ⟨encReady_of ?_, by decide, encReady_of ?_, by decide⟩ <;> decide +kernel

theorem test_witness_EncodeStaysInCapacity :
    encState.cur < encState.chans.length ∧ ∃ t, exec (.enc v0) encState = .next t := ⟨by decide, _, rfl⟩

theorem test_witness_DecodeCompletes :
    DecReady v0 decState ∧ decState.curChan.raced = false ∧ decState.mem.wf = true ∧
      decOutcome v0 decState = .done [5] ⟨1, 7, 1, 5, [0, 0, 0, 0]⟩ false ∧
      portWrites decState.port (decOut v0 decState.curChan.latch) = true :=
  ⟨decReady, by decide, by decide +kernel, by decide +kernel, by decide⟩

/-- A decode's operands, for the pre-checks. -/
def decWith (wide : Bool) (src dst srcCap dstCap : DWord) : State :=
  { machine (running 0x102 10 src dst srcCap dstCap) [] with params := { params with hasWide := wide } }

/-- The four clauses, in their order. -/
theorem test_witness_DecodePreChecks :
    (let s := decWith false 0x1000 0x2000 7 40; (variant true false .up true).wide = true ∧ s.params.hasWide = false) ∧
    (let s := decWith true 0x1000 0xFFFFFFFFFFFFFFF0 7 40
     (decOut v0 s.curChan.latch).valid s.params.addrWidth = false) ∧
    (let s := decWith true 0x1000 0x2000 7 39
     (decIn s.curChan.latch).valid s.params.addrWidth = true ∧ (decOut v0 s.curChan.latch).valid s.params.addrWidth = true ∧
      s.curChan.latch.dstCap.toNat < s.curChan.latch.len.toNat * v0.size) ∧
    (let s := decWith true 0x1000 0x1006 7 40
     (decIn s.curChan.latch).valid s.params.addrWidth = true ∧ (decOut v0 s.curChan.latch).valid s.params.addrWidth = true ∧
      ¬s.curChan.latch.dstCap.toNat < s.curChan.latch.len.toNat * v0.size ∧
      (decIn s.curChan.latch).meets (decOut v0 s.curChan.latch) = true) := by decide +kernel

/-- A decode of one element from a given stream, under a given answer map. -/
def decFrom (bs : List Byte) (port : List Region) : State :=
  withPort (machine (running 0x102 1 0x1000 0x2000 7 4) (Memory.write [] 0x1000 bs)) port

theorem onDevice_none (port : List Region) (r : Range) (h : ∀ g ∈ port, g.device = false) : onDevice port r = false := by
  simp only [onDevice, List.any_eq_false, Bool.and_eq_true, not_and]
  intro g hg hd
  rw [h g hg] at hd
  cases hd

/-- The stream and the bus errors do not enter the conditions of a decode. -/
theorem decFrom_ready (bs : List Byte) (port : List Region) (h : ∀ g ∈ port, g.device = false) :
    DecReady v0 (decFrom bs port) :=
  ⟨decReady.current, decReady.capability, decReady.inValid, decReady.outValid, decReady.capacity, decReady.apart,
    onDevice_none _ _ h, onDevice_none _ _ h⟩

/-- A count that does not match. -/
theorem test_witness_DecodeMalformed :
    DecReady v0 (decFrom [5, 0, 0, 0, 0, 2, 0] []) ∧ (decFrom [5, 0, 0, 0, 0, 2, 0] []).curChan.raced = false ∧
      decOutcome v0 (decFrom [5, 0, 0, 0, 0, 2, 0] []) = .malformed ⟨0, 7, 0, 5, []⟩ false ∧
      portWrites [] { base := 0x2000, size := (Progress.known v0 ⟨0, 7, 0, 5, []⟩) * v0.size } = true :=
  ⟨decFrom_ready _ _ (by decide), by decide, by decide +kernel, by decide⟩

/-- The clauses for `ERR_MEM`: byte 0 of a header not answered, a baseline or a byte of a count not answered (what follows is
still read), an output not taken. -/
theorem test_witness_DecodeBusError :
    decOutcome v0 (decFrom [5, 0, 0, 0, 0, 1, 0] (badRange 0x1004 1 true false)) = .busError ⟨0, 7, 0, 5, []⟩ ∧
      decOutcome v0 (decFrom [5, 0, 0, 0, 0, 1, 0] (badRange 0x1000 1 true false)) =
        .done [5] ⟨1, 7, 1, 5, [0, 0, 0, 0]⟩ true ∧
      decOutcome v0 (decFrom [5, 0, 0, 0, 0, 1, 0] (badRange 0x1006 1 true false)) =
        .done [5] ⟨1, 7, 1, 5, [0, 0, 0, 0]⟩ true ∧
      decOutcome v0 (decFrom [5, 0, 0, 0, 0, 1, 0] (badRange 0x2003 1 false true)) =
        .done [5] ⟨1, 7, 1, 5, [0, 0, 0, 0]⟩ false ∧
      portWrites (badRange 0x2003 1 false true) (decOut v0 decState.curChan.latch) = false ∧
      DecReady v0 (decFrom [5, 0, 0, 0, 0, 1, 0] (badRange 0x2003 1 false true)) :=
  ⟨by decide +kernel, by decide +kernel, by decide +kernel, by decide +kernel, by decide, decFrom_ready _ _ (by decide)⟩

/-- R39, R97, R113: a header that would pass `SRC_CAP`; a bus error on the byte of it that is left may come first. -/
theorem test_truncated_header :
    decodeStream v0 ⟨[], [], 0x1000, 5⟩ 1 = .malformed ⟨0, 5, 0, 0, []⟩ false ∧
      decodeStream v0 ⟨[], badRange 0x1004 1 true false, 0x1000, 5⟩ 1 = .malformed ⟨0, 5, 0, 0, []⟩ true := by decide

/-- R97, R106: with `SRC_CAP` of 3 the baseline is truncated, so no element is known and a refused output byte cannot come
first: the code is `ERR_MALFORMED`. -/
theorem test_truncated_baseline :
    let s := withPort (machine (running 0x102 1 0x1000 0x2000 3 4) []) (badRange 0x2000 1 false true)
    decOutcome v0 s = .malformed ⟨0, 3, 0, 0, []⟩ false ∧ (nextOr s (exec (.dec v0) s)).curChan.err = 7 := by
  decide +kernel

/-- A stream of 129 elements whose second block's header has a wrong count. -/
def brokenStream : List Byte := [0, 0, 0, 0, 0, 0x80, 0, 0, 2, 0]

/-- The clauses for either code: a baseline not answered before a wrong header; a width above `W` beside a byte of the count
that is not answered, and a wrong count beside byte 0 not answered (R113); a wrong second header where the elements of the
first block cannot be written. -/
theorem test_witness_DecodeEitherCode :
    decOutcome v0 (decFrom [5, 0, 0, 0, 0, 2, 0] (badRange 0x1000 1 true false)) = .malformed ⟨0, 7, 0, 5, []⟩ true ∧
      decOutcome v0 (decFrom [5, 0, 0, 0, 33, 1, 0] (badRange 0x1006 1 true false)) = .malformed ⟨0, 7, 0, 5, []⟩ true ∧
      decOutcome v0 (decFrom [5, 0, 0, 0, 0, 2, 0] (badRange 0x1004 1 true false)) = .malformed ⟨0, 7, 0, 5, []⟩ true ∧
      (match decodeStream v0 ⟨Memory.write [] 0x1000 brokenStream, [], 0x1000, 10⟩ 129 with
        | .malformed p false =>
          p.elem = 128 ∧ portWrites (badRange 0x21FF 1 false true) { base := 0x2000, size := p.known v0 * v0.size } = false
        | _ => False) := by
  refine ⟨by decide +kernel, by decide +kernel, by decide +kernel, ?_⟩
  have h : (match decodeStream v0 ⟨Memory.write [] 0x1000 brokenStream, [], 0x1000, 10⟩ 129 with
      | .malformed p false => decide (p.elem = 128)
          && !portWrites (badRange 0x21FF 1 false true) { base := 0x2000, size := p.known v0 * v0.size }
      | _ => false) = true := by decide +kernel
  split at h
  · simpa using h
  · cases h

theorem test_witness_DecodeNeverWritesOutside :
    decState.cur < decState.chans.length ∧ ∃ t, exec (.dec v0) decState = .next t := ⟨by decide, _, rfl⟩

theorem test_witness_CommandsLeaveOtherChannels : ∃ t, exec .dec128U32UpD1 decState = .next t := ⟨_, rfl⟩

/-- A buffer that covers a device register at its last byte. -/
def deviceAt (base : Nat) : List Region := [⟨⟨base, 1⟩, false, false, true⟩]

theorem test_witness_DeviceBuffers :
    precheckEnc encState.params v0 (withPort encState (deviceAt 0x1003)).curChan.latch = none ∧
      onDevice (deviceAt 0x1003) (encIn v0 encState.curChan.latch) = true ∧
      onDevice (deviceAt 0x2026) (encOut encState.curChan.latch) = true ∧
      precheckDec decState.params v0 decState.curChan.latch = none ∧
      onDevice (deviceAt 0x1006) (decIn decState.curChan.latch) = true ∧
      onDevice (deviceAt 0x2003) (decOut v0 decState.curChan.latch) = true := by decide +kernel

theorem test_witness_CommandsStopOnlyOnDeviceBuffers :
    (∃ r, exec .enc128U32UpD1 (withPort encState (deviceAt 0x1003)) = .refused r) ∧
      ∀ g ∈ badRange 0 1 true true, g.device = false := ⟨⟨_, rfl⟩, by decide⟩

/-- A raced encode and a raced decode. -/
theorem test_witness_RacedCommand :
    let s := machine { running 0x101 1 0x1000 0x2000 0 39 with raced := true } mem1
    let u := machine { running 0x102 1 0x1000 0x2000 7 4 with raced := true } mem1
    s.curChan.raced = true ∧ EncReady v0 s ∧ u.curChan.raced = true ∧ DecReady v0 u := by
  refine ⟨rfl, encReady_of ?_, rfl, decReady_of ?_⟩ <;> decide +kernel

/-- The same command in two states that differ in the draw counter, in the last host read, and in a byte that no decode of
them reads. -/
theorem test_witness_CommandsAreDeterministic :
    let u : State := { decState with draws := 9, busData := [1], mem := decState.mem.set 0x9000 7 }
    decState.params = u.params ∧ decState.port = u.port ∧ decState.curChan.latch = u.curChan.latch ∧ u.mem.wf = true ∧
      (∀ a, (decIn decState.curChan.latch).has a = true → decState.mem.get a = u.mem.get a) ∧
      (nextOr decState (exec (.dec v0) decState)).curChan.err ≠ 6 ∧ (nextOr u (exec (.dec v0) u)).curChan.err ≠ 6 := by
  refine ⟨rfl, rfl, rfl, by decide +kernel, ?_, by decide +kernel, by decide +kernel⟩
  intro a ha
  have h : a ≠ 0x9000 := by
    rintro rfl
    exact absurd ha (by decide)
  exact (get_set_ne decState.mem 0x9000 a 7 h).symm

theorem test_witness_WaitReadsStatus :
    encState.params.Legal ∧ (encState.chan 0).eng = .busy ∧ (encState.chan 1).eng = .idle ∧ 1 < encState.params.nch := by
  decide

/-- The last addresses of memory, and one just past a busy command's write range. -/
theorem test_witness_HostAccesses :
    (2 ^ 64 - 4 + 4 ≤ 2 ^ encState.params.addrWidth) ∧ onDevice encState.port ⟨2 ^ 64 - 4, 4⟩ = false ∧
      encState.mem.wf = true ∧
      ∀ c ∈ encState.chans, c.eng = .busy → (abandonedRange c.latch).has (0x2027 + 0) = false := by
  decide +kernel

theorem test_witness_DeltaLayer :
    Fits v0 [2 ^ 32 - 1, 0, 7] ∧ Fits (variant true true .dn true) [2 ^ 64 - 1] := by
  simp [Fits, v0, variant, Variant.width, elemWidth]

/-- Both directions, with the step exactly `D1`, unsigned, and across the sign, signed. -/
theorem test_witness_MonotoneDeltas :
    reading v0 7 + v0.step ≤ reading v0 8 ∧
      reading (variant false false .dn true) 7 ≤ reading (variant false false .dn true) 8 - (variant false false .dn true).step ∧
      reading ⟨false, false, true, .up, true⟩ (2 ^ 32 - 1) + (1 : Nat) ≤ reading ⟨false, false, true, .up, true⟩ 0 ∧
      (8 : Nat) < 2 ^ v0.width ∧ 2 ^ 32 - 1 < 2 ^ v0.width := by decide +kernel

/-- Values below `2^32`, the largest among them, with and without a budget. -/
theorem test_witness_Selector :
    (∀ x ∈ List.replicate 31 0 ++ [2 ^ 32 - 1], x < 2 ^ 32) ∧ selectB (List.replicate 31 0 ++ [2 ^ 32 - 1]) 32 = 0 ∧
      exceptions (List.replicate 31 0 ++ [2 ^ 32 - 1]) 0 = [(31, 2 ^ 32 - 1)] := by decide +kernel

theorem test_witness_Pack : 0 < 4 ∧ (∀ x ∈ [7, 0, 5], x < 2 ^ 3) ∧ (List.replicate 32 0).length = 32 * 1 := by decide

/-- A buffer that holds a byte string at its limit. -/
theorem holds_written (off : Nat) (bs : List Byte) :
    Holds { mem := Memory.write [] (0x1000 + off) bs, port := [], base := 0x1000, lim := off + bs.length } off bs :=
  ⟨read_write _ _ _ rfl, le_rfl, rfl⟩

/-- A block of 32 values with an exception. -/
def excBlock : List Nat := List.replicate 31 0 ++ [2 ^ 32 - 1]

theorem test_witness_Patches :
    exceptions [1, 1, 0] (selectB [1, 1, 0] v0.width) = [] ∧
    Fits v0 excBlock ∧ excBlock.length ≤ v0.bs ∧ exceptions excBlock (selectB excBlock v0.width) ≠ [] ∧
      Holds { mem := Memory.write [] (0x1000 + 0) (patchEncode excBlock (selectB excBlock v0.width) v0.width), port := [],
              base := 0x1000, lim := 0 + (patchEncode excBlock (selectB excBlock v0.width) v0.width).length }
        0 (patchEncode excBlock (selectB excBlock v0.width) v0.width) :=
  ⟨by decide +kernel, by unfold Fits; decide +kernel, by decide +kernel, by decide +kernel, holds_written 0 _⟩

theorem test_witness_BlockAndStream :
    Fits v0 excBlock ∧ excBlock.length ≤ v0.bs ∧
      Holds { mem := Memory.write [] (0x1000 + 5) (encodeBlock v0 excBlock), port := [], base := 0x1000,
              lim := 5 + (encodeBlock v0 excBlock).length } 5 (encodeBlock v0 excBlock) ∧
      Holds { mem := Memory.write [] (0x1000 + 0) (stream v0 [5, 3, 8]), port := [], base := 0x1000,
              lim := 0 + (stream v0 [5, 3, 8]).length } 0 (stream v0 [5, 3, 8]) ∧ Fits v0 [5, 3, 8] :=
  ⟨by unfold Fits; decide +kernel, by decide +kernel, holds_written 5 _, holds_written 0 _, by unfold Fits; decide⟩

/-- The state after the encode of `encState`. -/
def encDone : State := nextOr encState (exec (.enc v0) encState)

/-- The decode of what `encState` wrote. -/
def decAfter : State := machine (running 0x102 1 0x2000 0x3000 7 4) encDone.mem

theorem test_witness_DecodeRestoresWhatEncodeRead :
    exec (.enc v0) encState = .next encDone ∧ DecReady v0 decAfter ∧ decAfter.curChan.raced = false ∧
      decAfter.mem = encDone.mem ∧ decAfter.curChan.latch.src = encState.curChan.latch.dst ∧
      decAfter.curChan.latch.count = encState.curChan.latch.count ∧
      (encOutput v0 encState).length ≤ decAfter.curChan.latch.srcCap.toNat ∧
      portReads decAfter.port { base := decAfter.curChan.latch.src.toNat, size := (encOutput v0 encState).length } = true ∧
      portWrites decAfter.port (decOut v0 decAfter.curChan.latch) = true :=
  ⟨rfl, decReady_of (by decide), rfl, rfl, rfl, rfl, by decide +kernel, by decide, by decide⟩

/-- Memory that differs just past where the reader stops. -/
theorem test_witness_Reader :
    (decodeStream v0 (decState.inBuf decState.curChan.latch) 1).prog.offset = 7 ∧
      ∀ a, 0x1000 ≤ a → a < 0x1000 + 7 → (decState.mem.set 0x1007 9).get a = decState.mem.get a :=
  ⟨by decide +kernel, fun a _ h => get_set_ne _ _ _ _ (by omega)⟩

end Sys2Proof.Tests
end

/-! Every step keeps the state legal (R8, R22, R25, R29, R110, R131): each update of a channel keeps `Chan.Inv`, so each
operation on the state keeps `State.Inv`, so each entry of the agenda does. -/

namespace Sys2Proof.Machine

/-! ### Updates of a channel -/

/-- A latched address fits `ADDR_WIDTH` when its upper half has no hardwired bit set (R25, R30). -/
theorem pairVal_lt_of_hi_lt (aw : Nat) (hi lo : Word) (haw : 32 ≤ aw) (h : hi.toNat < 2 ^ (aw - 32)) :
    (pairVal hi lo).toNat < 2 ^ aw := by
  have hlo := lo.isLt
  have hpow : 2 ^ aw = 2 ^ (aw - 32) * 2 ^ 32 := by rw [← pow_add]; congr 1; omega
  rw [pairVal_toNat, hpow]
  omega

/-- The upper half of an address that a host writes has no hardwired bit set (R25). -/
theorem addrHi_toNat_lt (aw : Nat) (v : Word) : (addrHi aw v).toNat < 2 ^ (aw - 32) := by
  rw [addrHi, BitVec.toNat_ofNat]
  exact lt_of_le_of_lt (Nat.mod_le _ _) (Nat.mod_lt _ (Nat.two_pow_pos _))

/-- The error codes are not reserved (R110). -/
theorem ErrCode.code_le_seven (e : ErrCode) : e.code.toNat ≤ 7 := by cases e <;> decide

/-- The free code of a raced command is not reserved (R44, R110). -/
theorem anyCode_le_seven (s : State) : s.anyCode.toNat ≤ 7 := by
  have := (Config.freeErr s.draws).isLt
  rw [State.anyCode, BitVec.toNat_setWidth]
  exact le_trans (Nat.mod_le _ _) (by omega)

/-- A channel after reset is legal (R124). -/
theorem Chan.Inv.blank (aw : Nat) : Chan.blank.Inv aw where
  err := Nat.zero_le 7
  srcHi := Nat.two_pow_pos _
  dstHi := Nat.two_pow_pos _
  latchSrc := Nat.two_pow_pos _
  latchDst := Nat.two_pow_pos _
  busyFlags := nofun
  busyWord := nofun
  idleHidden := fun _ => ⟨rfl, rfl⟩

section Channel

variable {aw : Nat} {c : Chan}

/-- The hidden state of a busy channel is free (R31). -/
theorem Chan.Inv.setHidden (h : c.Inv aw) (hb : c.eng = .busy) (p : Progress) (r : Bool) :
    Chan.Inv aw { c with prog := p, raced := r } :=
  { h with idleHidden := fun hi => absurd (hb.symm.trans hi) (by decide) }

/-- Marking a race keeps a channel legal: only a busy one is marked (R44). -/
theorem Chan.Inv.raceIf (h : c.Inv aw) (f : Latch → Bool) : (c.raceIf f).Inv aw := by
  rcases raceIf_cases c f with hc | ⟨hb, hc⟩ <;> rw [hc]
  · exact h
  · exact h.setHidden hb c.prog true

/-- Acceptance of a word with `OP != 0` keeps a channel legal (R22, R29, R30). -/
theorem Chan.Inv.accept (h : c.Inv aw) (haw : 32 ≤ aw) (w : Word) (hw : opField w ≠ 0) (contested : Bool) :
    (c.accept w contested).Inv aw where
  err := Nat.zero_le 7
  srcHi := h.srcHi
  dstHi := h.dstHi
  latchSrc := pairVal_lt_of_hi_lt aw _ _ haw h.srcHi
  latchDst := pairVal_lt_of_hi_lt aw _ _ haw h.dstHi
  busyFlags := fun _ => ⟨rfl, rfl, rfl, rfl⟩
  busyWord := fun _ => ⟨rfl, hw⟩
  idleHidden := nofun

/-- A dropped command keeps a channel legal (R22). -/
theorem Chan.Inv.drop (h : c.Inv aw) : (flagsAtDrop c).Inv aw := { h with }

/-- Completion with a code that is not reserved keeps a channel legal (R29, R110). -/
theorem Chan.Inv.complete (h : c.Inv aw) (err : BitVec 4) (he : err.toNat ≤ 7) (lo hi : Word) :
    Chan.Inv aw { flagsAtComplete c err with resultLo := lo, resultHi := hi, prog := .start, raced := false } :=
  { h with err := he, busyFlags := nofun, busyWord := nofun, idleHidden := fun _ => ⟨rfl, rfl⟩ }

/-- A host's register write keeps a channel legal (R23 to R27). -/
theorem Chan.Inv.write (h : c.Inv aw) (v : Word) (r : Reg) : (c.write aw v r).Inv aw := by
  cases r with
  | cmd | resultLo | resultHi => exact h
  | len | srcLo | dstLo | srcCapLo | srcCapHi | dstCapLo | dstCapHi => exact { h with }
  | srcHi => exact { h with srcHi := addrHi_toNat_lt aw v }
  | dstHi => exact { h with dstHi := addrHi_toNat_lt aw v }
  | status =>
    have hdone (hb : c.eng = .busy) : (writeStatus c v).done = false := by
      simp [writeStatus, (h.busyFlags hb).1]
    exact { h with busyFlags := fun hb => ⟨hdone hb, (h.busyFlags hb).2⟩ }

end Channel

/-! ### Operations on the state -/

section Operations

variable {s : State}

/-- The invariant speaks of the parameters, the channels and the form of memory only. -/
theorem State.Inv.of_same {t : State} (h : s.Inv) (hp : t.params = s.params) (hc : t.chans = s.chans)
    (hm : t.mem.wf = true) : t.Inv where
  params := hp ▸ h.params
  chans := by rw [hc, hp]; exact h.chans
  mem := hm
  chan := by rw [hc, hp]; exact h.chan

/-- Every channel reads as legal, one that does not exist too (R28). -/
theorem State.Inv.chanAt (h : s.Inv) (ch : Nat) : (s.chan ch).Inv s.params.addrWidth := by
  rcases Nat.lt_or_ge ch s.chans.length with hlt | hge
  · exact h.chan _ (chan_mem s ch hlt)
  · rw [chan_of_le s ch hge]
    exact .blank _

theorem State.Inv.setChan (h : s.Inv) (ch : Nat) {c : Chan} (hc : c.Inv s.params.addrWidth) :
    (s.setChan ch c).Inv where
  params := h.params
  chans := by simpa using h.chans
  mem := h.mem
  chan := fun d hd => (List.mem_or_eq_of_mem_set hd).elim (h.chan d) (· ▸ hc)

/-- Changing every channel in a way that keeps it legal. -/
theorem State.Inv.mapChans (h : s.Inv) (f : Chan → Chan)
    (hf : ∀ c : Chan, c.Inv s.params.addrWidth → (f c).Inv s.params.addrWidth) :
    State.Inv { s with chans := s.chans.map f } where
  params := h.params
  chans := by simpa using h.chans
  mem := h.mem
  chan := by
    intro d hd
    obtain ⟨c, hc, rfl⟩ := List.mem_map.1 hd
    exact hf c (h.chan c hc)

theorem State.Inv.select (h : s.Inv) (ch : Nat) : (s.select ch).Inv := h.of_same rfl rfl h.mem

theorem State.Inv.setInputs (h : s.Inv) (l : List Input) : State.Inv { s with inputs := l } := h.of_same rfl rfl h.mem

theorem State.Inv.writeMem (h : s.Inv) (a : Nat) (bs : List Byte) : State.Inv { s with mem := s.mem.write a bs } :=
  h.of_same rfl rfl (write_wf _ _ _ h.mem)

theorem State.Inv.scramble (h : s.Inv) (r : Range) : (s.scramble r).Inv := h.of_same rfl rfl (write_wf _ _ _ h.mem)

theorem State.Inv.raceWrite (h : s.Inv) (r : Range) : (s.raceWrite r).Inv := h.mapChans _ fun _ hc => hc.raceIf _

theorem State.Inv.raceAccept (h : s.Inv) (l : Latch) : (s.raceAccept l).Inv := h.mapChans _ fun _ hc => hc.raceIf _

theorem State.Inv.complete (h : s.Inv) (result : DWord) (err : BitVec 4) (he : err.toNat ≤ 7) :
    (s.complete result err).Inv := h.setChan s.cur ((h.chanAt s.cur).complete err he _ _)

theorem State.Inv.failClean (h : s.Inv) (e : ErrCode) : (s.failClean e).Inv := h.complete 0 e.code e.code_le_seven

theorem State.Inv.failDirty (h : s.Inv) (err : BitVec 4) (he : err.toNat ≤ 7) (r : Range) : (s.failDirty err r).Inv :=
  (h.scramble r).complete _ err he

/-- A write to `CMD` of a word with `OP != 0`, accepted or dropped, keeps the state legal (R22). -/
theorem State.Inv.issue (h : s.Inv) (ch : Nat) (w : Word) (hw : opField w ≠ 0) : (s.issue ch w).Inv := by
  unfold State.issue
  split
  · exact h.setChan ch (h.chanAt ch).drop
  · obtain ⟨-, -, haw, -, -⟩ := h.params
    exact (h.raceAccept _).setChan ch ((h.chanAt ch).accept haw w hw _)

theorem State.Inv.innerStep (h : s.Inv) (ch : Nat) : (s.innerStep ch).Inv := by
  unfold State.innerStep
  split
  · rename_i hb
    exact h.setChan ch ((h.chanAt ch).setHidden ((busy_iff _).1 hb) _ _)
  · exact h

theorem State.Inv.hostWait (h : s.Inv) (ch : Nat) : (hostWait ch s).Inv := by
  unfold Machine.hostWait
  split <;> exact h.of_same rfl rfl h.mem

theorem State.Inv.abandon (h : s.Inv) (c : Chan) : (s.abandon c).Inv := by
  unfold State.abandon
  split
  · exact h.scramble _
  · exact h

/-- The state after reset is legal, for legal build parameters (R124). -/
theorem State.Inv.resetWith {p : Params} (hp : p.Legal) : (State.resetWith p).Inv where
  params := hp
  chans := by simp
  mem := rfl
  chan := fun c hc => by rw [List.eq_of_mem_replicate hc]; exact .blank _

/-- Reset keeps the state legal: the channels are those after reset, and memory that of the commands abandoned (R125). -/
theorem State.Inv.resetNow (h : s.Inv) : s.resetNow.Inv := by
  have habandoned : (s.chans.foldl State.abandon s).Inv :=
    List.foldlRecOn s.chans State.abandon h fun _ ht c _ => ht.abandon c
  exact (State.Inv.resetWith h.params).of_same rfl rfl habandoned.mem

end Operations

/-! ### Outcomes -/

/-- The next state of an outcome, if it has one, is legal. -/
def NextInv (o : Host.Outcome State Fault Refusal) : Prop := ∀ t, o = .next t → t.Inv

@[simp] theorem nextInv_next (t : State) : NextInv (.next t) ↔ t.Inv :=
  ⟨fun h => h t rfl, fun h _ ht => Host.Outcome.next.inj ht ▸ h⟩

@[simp] theorem nextInv_fault (f : Fault) : NextInv (.fault f) := nofun

@[simp] theorem nextInv_refused (r : Refusal) : NextInv (.refused r) := nofun

section Outcomes

variable {s : State}

theorem State.Inv.encodeRun (h : s.Inv) (v : Variant) : (encodeRun v s.curChan.latch s).Inv := by
  rcases encodeRun_cases v s with ⟨-, -, ht⟩ | ⟨-, ht⟩ <;> rw [ht]
  · exact (h.writeMem _ _).complete _ 0 (Nat.zero_le 7)
  · exact h.failDirty _ (ErrCode.code_le_seven _) _

theorem State.Inv.decodeRun (h : s.Inv) (v : Variant) : (decodeRun v s.curChan.latch s).Inv := by
  rcases decodeRun_cases v s with ⟨xs, p, -, -, ht⟩ | ⟨e, he, ht⟩ <;> rw [ht]
  · exact (h.writeMem _ _).complete _ 0 (Nat.zero_le 7)
  · have hcode : e.toNat ≤ 7 := by
      rcases he with rfl | ⟨rfl, -⟩ <;> exact ErrCode.code_le_seven _
    exact h.failDirty e hcode _

theorem State.Inv.runEnc (h : s.Inv) (v : Variant) : NextInv (runEnc v s) := by
  intro t ht
  rcases runEnc_cases v s t ht with ⟨e, -, rfl⟩ | ⟨-, -, -, ⟨-, rfl⟩ | ⟨-, rfl⟩⟩
  · exact h.failClean e
  · exact h.failDirty _ (anyCode_le_seven s) _
  · exact h.encodeRun v

theorem State.Inv.runDec (h : s.Inv) (v : Variant) : NextInv (runDec v s) := by
  intro t ht
  rcases runDec_cases v s t ht with ⟨e, -, rfl⟩ | ⟨-, -, -, ⟨-, rfl⟩ | ⟨-, rfl⟩⟩
  · exact h.failClean e
  · exact h.failDirty _ (anyCode_le_seven s) _
  · exact h.decodeRun v

/-- Every command keeps the state legal. -/
theorem State.Inv.exec (h : s.Inv) (i : Instr) : NextInv (exec i s) := by
  rw [exec_eq_kind]
  cases i.kind with
  | nop n => exact (nextInv_next s).2 h
  | enc v => exact h.runEnc v
  | dec v => exact h.runDec v
  | bound wide w64 a => exact (nextInv_next _).2 (h.complete _ 0 (Nat.zero_le 7))

/-- An engine's run keeps the state legal, on an illegal word too (R52). -/
theorem State.Inv.runEngine (h : s.Inv) (ch : Nat) : NextInv (runEngine ch s) := by
  unfold Machine.runEngine
  split
  · split
    · exact (h.select ch).exec _
    · exact (nextInv_next _).2 ((h.select ch).failClean _)
  · exact (nextInv_next _).2 h

theorem State.Inv.writeCmd (h : s.Inv) (ch : Nat) (w : Word) : NextInv (writeCmd ch w s) := by
  by_cases hw : opField w = 0
  · simp only [Machine.writeCmd, decodeCmd_of_op_zero w hw]
    exact (h.select ch).exec _
  · rw [writeCmd_of_op_ne_zero ch w s hw]
    exact (nextInv_next _).2 (h.issue ch w hw)

theorem State.Inv.hostRegWrite (h : s.Inv) (addr : Nat) (data : List Byte) : NextInv (hostRegWrite addr data s) := by
  unfold Machine.hostRegWrite
  split
  · exact nextInv_refused _
  · split
    · split
      · exact h.writeCmd _ _
      · exact (nextInv_next _).2 (h.setChan _ ((h.chanAt _).write _ _))
      · exact (nextInv_next _).2 h
    · exact (nextInv_next _).2 h

theorem State.Inv.hostRegRead (h : s.Inv) (addr size : Nat) : NextInv (hostRegRead addr size s) := by
  unfold Machine.hostRegRead
  split
  · exact nextInv_refused _
  · exact (nextInv_next _).2 (h.of_same rfl rfl h.mem)

theorem State.Inv.hostMemWrite (h : s.Inv) (addr : Nat) (data : List Byte) : NextInv (hostMemWrite addr data s) := by
  simp only [Machine.hostMemWrite]
  split
  · exact nextInv_fault _
  · split
    · exact nextInv_refused _
    · exact (nextInv_next _).2 ((h.raceWrite _).writeMem addr data)

theorem State.Inv.hostMemRead (h : s.Inv) (addr size : Nat) : NextInv (hostMemRead addr size s) := by
  simp only [Machine.hostMemRead]
  split
  · exact nextInv_fault _
  · split
    · exact nextInv_refused _
    · exact (nextInv_next _).2 (h.of_same rfl rfl h.mem)

/-- `RUN` keeps the state legal: a NOP changes no channel, a busy channel drops the word, an idle one accepts and runs it
(R57). -/
theorem State.Inv.hostRun (h : s.Inv) (ch : Nat) (w : Word) : NextInv (hostRun ch w s) := by
  have hwait := h.setInputs (.wait ch :: s.inputs)
  simp only [Machine.hostRun]
  split
  · by_cases hw : opField w = 0
    · simp only [decodeCmd_of_op_zero w hw]
      exact (hwait.select ch).exec _
    · have hissue := hwait.issue ch w hw
      split
      · rename_i n hn
        exact absurd hn (decodeCmd_ne_nop w n hw)
      · split
        · exact (nextInv_next _).2 hissue
        · exact hissue.runEngine ch
  · exact (nextInv_next _).2 hwait

/-- Every entry of the agenda keeps the state legal. -/
theorem State.Inv.perform (h : s.Inv) (i : Input) : NextInv (perform i s) := by
  cases i with
  | regWrite addr data => exact h.hostRegWrite addr data
  | regRead addr size => exact h.hostRegRead addr size
  | memWrite addr data => exact h.hostMemWrite addr data
  | memRead addr size => exact h.hostMemRead addr size
  | engine ch => exact h.runEngine ch
  | tick ch => exact (nextInv_next _).2 (h.innerStep ch)
  | wait ch => exact (nextInv_next _).2 (h.hostWait ch)
  | run ch w => exact h.hostRun ch w
  | reset => exact (nextInv_next _).2 h.resetNow

theorem State.Inv.idleStep (h : s.Inv) : NextInv (idleStep s) := by
  unfold Machine.idleStep
  split
  · exact h.runEngine _
  · exact (nextInv_next _).2 h

theorem State.Inv.step (h : s.Inv) : NextInv (step s) := by
  unfold Machine.step
  split
  · exact h.idleStep
  · exact (h.setInputs _).perform _

end Outcomes

/-- Settles O8: every entry of the agenda, and the step with an empty agenda, keeps the invariant. -/
theorem stepKeepsInvariant : Obligations.StepKeepsInvariant := fun _ t hs ht => hs.step t ht

end Sys2Proof.Machine

/-! The registers of the TPDC (10_state.md): the map of R17 and its inverse, what a host's register access does to the
state (R18, R22 to R28), what an accepted command leaves of the other channels (R121), and that nothing changes what `ID`
and `CAP` read (R21). -/

namespace Sys2Proof.Machine

/-! ### Fields of a word -/

/-- A bit of a word, from its value. -/
theorem getLsbD_eq_of_toNat (w : Word) (k : Nat) (b : Bool) (h : w.toNat / 2 ^ k % 2 = b.toNat) : w.getLsbD k = b := by
  rw [← Bool.ofNat_toNat (w.getLsbD k), getLsbD_toNat, h, Bool.ofNat_toNat]

/-- A field of a word, from its value. -/
theorem extractLsb'_eq_of_toNat (w : Word) (a n : Nat) (v : BitVec n) (h : w.toNat / 2 ^ a % 2 ^ n = v.toNat) :
    w.extractLsb' a n = v :=
  BitVec.eq_of_toNat_eq (by rw [BitVec.extractLsb'_toNat, Nat.shiftRight_eq_div_pow, h])

/-- `STATUS` as a number (R23). -/
theorem statusWord_toNat (c : Chan) :
    (statusWord c).toNat = c.busy.toNat + 2 * c.done.toNat + 16 * c.err.toNat + 256 * c.dropped.toNat := by
  have hbusy := c.busy.toNat_lt
  have hdone := c.done.toNat_lt
  have herr := c.err.isLt
  have hdropped := c.dropped.toNat_lt
  rw [statusWord, BitVec.toNat_ofNat]
  omega

/-- `CAP` as a number (R20): `NCH` fits its field. -/
theorem capWord_toNat (p : Params) (h : p.nch ≤ 15) :
    (capWord p).toNat = p.hasWide.toNat + 2 + 16 * p.nch + 256 * 32 := by
  have hwide := p.hasWide.toNat_lt
  rw [capWord, Config.XR, BitVec.toNat_ofNat]
  omega

/-! ### The map of the window -/

/-- An offset below 4 KiB is in the window (R17, R33). -/
theorem windowOffset_add (p : Params) (off : Nat) (h : off < 4096) : windowOffset p (p.regBase + off) = some off := by
  rw [windowOffset, if_pos ⟨Nat.le_add_right _ _, Nat.add_lt_add_left h _⟩, Nat.add_sub_cancel_left]

/-- A bus address in the window is its offset from `REG_BASE`. -/
theorem eq_add_of_windowOffset {p : Params} {addr off : Nat} (h : windowOffset p addr = some off) :
    addr = p.regBase + off := by
  unfold windowOffset at h
  split at h
  · rename_i hin
    injection h with h
    omega
  · cases h

/-- A register stands at an aligned offset below the 64 bytes of its channel (R17). -/
theorem regOffset_aligned (r : Reg) : regOffset r < 0x40 ∧ regOffset r % 4 = 0 := by cases r <;> decide

@[simp] theorem regAt_regOffset (r : Reg) : regAt (regOffset r) = some r := by cases r <;> rfl

/-- No two offsets name one register. -/
theorem eq_regOffset_of_regAt {off : Nat} {r : Reg} (h : regAt off = some r) : off = regOffset r := by
  unfold regAt at h
  split at h <;> cases h <;> rfl

/-- Channel `ch`'s register `r` is what its offset names (R17). -/
theorem slotAt_slotOffset (nch ch : Nat) (r : Reg) (h : ch < nch) : slotAt nch (slotOffset ch r) = .chan ch r := by
  obtain ⟨hlt, -⟩ := regOffset_aligned r
  have hdiv : slotOffset ch r / 0x40 - 1 = ch := by unfold slotOffset; omega
  have hmod : slotOffset ch r % 0x40 = regOffset r := by unfold slotOffset; omega
  have hge : 0x40 ≤ slotOffset ch r := by unfold slotOffset; omega
  rw [slotAt, if_neg (by omega), if_neg (by omega), if_neg (by omega), hdiv, if_pos h, hmod, regAt_regOffset]

/-- An aligned offset names at most the register that stands there, of a channel that exists (R17). -/
theorem slotOffset_of_slotAt {nch off ch : Nat} {r : Reg} (h : slotAt nch off = .chan ch r) :
    ch < nch ∧ off = slotOffset ch r := by
  unfold slotAt at h
  split at h
  · cases h
  split at h
  · cases h
  split at h
  · cases h
  split at h
  · rename_i hge hlt
    split at h
    · rename_i hr
      cases h
      have := eq_regOffset_of_regAt hr
      exact ⟨hlt, by unfold slotOffset; omega⟩
    · cases h
  · cases h

/-- The reserved offsets of R17: before the first channel, after the last, and the holes of each. -/
theorem slotAt_reserved (nch off : Nat)
    (h : 8 ≤ off ∧ off < 0x40 ∨ 0x40 * (nch + 1) ≤ off ∨
      0x40 ≤ off ∧ (off % 0x40 = 0x0C ∨ off % 0x40 = 0x38 ∨ off % 0x40 = 0x3C)) :
    slotAt nch off = .reserved := by
  rw [slotAt, if_neg (by omega), if_neg (by omega)]
  rcases h with ⟨-, hlt⟩ | hge | ⟨hge, hhole⟩
  · rw [if_pos hlt]
  · rw [if_neg (by omega), if_neg (by omega)]
  · have hnone : regAt (off % 0x40) = none := by rcases hhole with h | h | h <;> rw [h] <;> rfl
    rw [if_neg (by omega), hnone]
    exact ite_self _

/-- The registers of the channels that exist stand in the window (R8, R17). -/
theorem slotOffset_lt {p : Params} (hp : p.Legal) {ch : Nat} (r : Reg) (h : ch < p.nch) : slotOffset ch r < 4096 := by
  obtain ⟨-, hnch, -⟩ := hp
  obtain ⟨hlt, -⟩ := regOffset_aligned r
  unfold slotOffset
  omega

theorem windowOffset_slotOffset {p : Params} (hp : p.Legal) {ch : Nat} (r : Reg) (h : ch < p.nch) :
    windowOffset p (p.regBase + slotOffset ch r) = some (slotOffset ch r) :=
  windowOffset_add p _ (slotOffset_lt hp r h)

@[simp] theorem regAccess_iff (off size : Nat) : regAccess off size = true ↔ size = 4 ∧ off % 4 = 0 := by
  simp [regAccess]

theorem regAccess_slotOffset (ch : Nat) (r : Reg) : regAccess (slotOffset ch r) 4 = true := by
  obtain ⟨-, halign⟩ := regOffset_aligned r
  rw [regAccess_iff]
  exact ⟨rfl, by unfold slotOffset; omega⟩

/-! ### Register reads -/

/-- An aligned 32-bit read gives the word of the slot (R18). -/
theorem readReg_aligned (s : State) (off : Nat) (h : off % 4 = 0) :
    s.readReg off 4 = leBytes 4 (s.readSlot (slotAt s.params.nch off)).toNat :=
  if_pos ((regAccess_iff off 4).2 ⟨rfl, h⟩)

/-- Every byte of the word 0 is 0. -/
theorem leBytes_zero : leBytes 4 (0 : Word).toNat = [0, 0, 0, 0] := by decide

/-- What a reserved offset reads (R28). -/
theorem readReg_reserved (s : State) (off : Nat) (halign : off % 4 = 0) (h : slotAt s.params.nch off = .reserved) :
    s.readReg off 4 = [0, 0, 0, 0] := by
  rw [readReg_aligned s off halign, h]
  exact leBytes_zero

/-- What `ID` reads (R19). -/
theorem readReg_id (s : State) : s.readReg 0 4 = leBytes 4 Config.idValue.toNat := readReg_aligned s 0 rfl

/-- What `CAP` reads (R20). -/
theorem readReg_cap (s : State) : s.readReg 4 4 = leBytes 4 (capWord s.params).toNat := readReg_aligned s 4 rfl

/-- What a register of a channel that exists reads (R17). -/
theorem readReg_slotOffset (s : State) (ch : Nat) (r : Reg) (h : ch < s.params.nch) :
    s.readReg (slotOffset ch r) 4 = leBytes 4 ((s.chan ch).read r).toNat := by
  obtain ⟨-, halign⟩ := (regAccess_iff _ _).1 (regAccess_slotOffset ch r)
  rw [readReg_aligned s _ halign, slotAt_slotOffset _ _ r h]
  rfl

/-- Every register of a channel after reset reads 0 (R124). -/
theorem blank_read (r : Reg) : Chan.blank.read r = 0 := by cases r <;> rfl

/-! ### One channel replaced -/

/-- Replacing a channel changes nothing else of the machine. -/
theorem setChan_onlyChan (s : State) (ch : Nat) (c : Chan) : OnlyChan s (s.setChan ch c) ch where
  params := rfl
  port := rfl
  inputs := rfl
  cur := rfl
  busData := rfl
  count := by simp
  others := fun k hk => setChan_chan_ne s ch k c hk

/-- Replacing a channel by itself changes nothing. -/
theorem setChan_chan (s : State) (ch : Nat) : s.setChan ch (s.chan ch) = s := by
  have hset : s.chans.set ch (s.chan ch) = s.chans := by
    rcases Nat.lt_or_ge ch s.chans.length with hlt | hge
    · rw [State.chan, List.getD_eq_getElem _ _ hlt, List.set_getElem_self]
    · exact List.set_eq_of_length_le hge
  rw [State.setChan, hset]

/-- What a channel reads as after one is replaced: the new one at its own place, where it exists (R28). -/
theorem setChan_chan_cases (s : State) (k j : Nat) (c : Chan) :
    (s.setChan k c).chan j = s.chan j ∨ (j = k ∧ (s.setChan k c).chan j = c) := by
  by_cases hjk : j = k
  · subst hjk
    rcases Nat.lt_or_ge j s.chans.length with hlt | hge
    · exact .inr ⟨rfl, setChan_chan_self s j c hlt⟩
    · rw [State.setChan, List.set_eq_of_length_le hge]
      exact .inl rfl
  · exact .inl (setChan_chan_ne s k j c hjk)

/-! ### A host write to one register of a channel (R23 to R27) -/

/-- A write to one register leaves what every other reads. -/
theorem Chan.read_write_ne (aw : Nat) (c : Chan) (v : Word) {q r : Reg} (h : q ≠ r) :
    (c.write aw v r).read q = c.read q := by
  cases r
  all_goals cases q
  all_goals first
    | exact absurd rfl h
    | rfl

/-- A register write leaves the hidden state (R30, R31). -/
theorem Chan.write_keepsHidden (aw : Nat) (c : Chan) (v : Word) (r : Reg) : KeepsHidden c (c.write aw v r) := by
  cases r <;> exact ⟨rfl, rfl, rfl⟩

/-- The lower half of an address has no hardwired bit: `ADDR_WIDTH` is at least 32 (R8, R25). -/
theorem addrLo_of_le (aw : Nat) (v : Word) (h : 32 ≤ aw) : addrLo aw v = v := by
  have hlt : v.toNat < 2 ^ aw := lt_of_lt_of_le v.isLt (Nat.pow_le_pow_right (by decide) h)
  rw [addrLo, Nat.mod_eq_of_lt hlt, BitVec.ofNat_toNat, BitVec.setWidth_eq]

/-- The upper half of an address as a number: the bits below `ADDR_WIDTH` (R25). -/
theorem addrHi_toNat (aw : Nat) (v : Word) : (addrHi aw v).toNat = v.toNat % 2 ^ (aw - 32) := by
  rw [addrHi, BitVec.toNat_ofNat]
  exact Nat.mod_eq_of_lt (lt_of_le_of_lt (Nat.mod_le _ _) v.isLt)

/-- Clearing by a 1: the old flag stays where the bit written is 0 (R23). -/
theorem and_not_eq_ite (a b : Bool) : (a && !b) = if b then false else a := by cases b <;> simp

/-! ### Acceptance -/

/-- Marking a race on a channel after reset does nothing: it runs no command. -/
theorem blank_raceIf (f : Latch → Bool) : Chan.blank.raceIf f = .blank := rfl

/-- Acceptance leaves every other channel but for the mark of a race, one that does not exist too (R28, R121). -/
theorem accept_chan_other (s : State) (k j : Nat) (w : Word) (h : j ≠ k) :
    (s.accept k w).chan j = (s.chan j).raceIf (conflict s (latchOf (s.chan k) w)) := by
  rcases Nat.lt_or_ge j s.chans.length with hlt | hge
  · exact accept_chan_ne s k j w h hlt
  · rw [chan_of_le s j hge, blank_raceIf]
    exact chan_of_le _ j (by simpa [State.accept] using hge)

/-- `OP` as the number that the statements write (R50). -/
theorem opField_ne_zero {w : Word} (h : w.toNat % 16 ≠ 0) : opField w ≠ 0 := mt (opField_eq_zero_iff w).1 h

theorem not_busy_of_idle {c : Chan} (h : c.eng = .idle) : ¬c.busy = true := by simp [h]

/-- A busy channel drops a command (R22). -/
theorem issue_of_busy (s : State) (ch : Nat) (w : Word) (h : (s.chan ch).eng = .busy) :
    s.issue ch w = s.setChan ch (flagsAtDrop (s.chan ch)) := if_pos ((busy_iff _).2 h)

/-- An idle channel accepts one (R22). -/
theorem issue_of_idle (s : State) (ch : Nat) (w : Word) (h : (s.chan ch).eng = .idle) :
    s.issue ch w = s.accept ch w := if_neg (not_busy_of_idle h)

@[simp] theorem issue_params (s : State) (ch : Nat) (w : Word) : (s.issue ch w).params = s.params := by
  unfold State.issue
  split <;> rfl

@[simp] theorem issue_mem (s : State) (ch : Nat) (w : Word) : (s.issue ch w).mem = s.mem := by
  unfold State.issue
  split <;> rfl

/-! ### Register writes -/

/-- A step takes the head of the agenda off and performs it (log 4). -/
theorem step_cons (s : State) (i : Input) (rest : List Input) (h : s.inputs = i :: rest) :
    step s = perform i { s with inputs := rest } := by rw [step, h]

/-- A write that is no aligned 32-bit access to a register of a channel is ignored (R18, R19, R20, R28). -/
theorem hostRegWrite_ignored (s : State) {addr off : Nat} (data : List Byte) (hw : windowOffset s.params addr = some off)
    (h : regAccess off data.length = true → ∀ ch r, slotAt s.params.nch off ≠ .chan ch r) :
    hostRegWrite addr data s = .next s := by
  rw [hostRegWrite, hw]
  simp only
  split
  · rename_i hacc
    split
    · exact absurd ‹_› (h hacc _ _)
    · exact absurd ‹_› (h hacc _ _)
    · rfl
  · rfl

/-- `WR <reg>, <v>` on a register other than `CMD` of a channel that exists (R57, R23 to R27). -/
theorem perform_wrReg (s : State) (hp : s.params.Legal) {ch : Nat} {r : Reg} (v : Word) (hch : ch < s.params.nch)
    (hr : r ≠ .cmd) :
    perform (wrReg s.params ch r v) s = .next (s.setChan ch ((s.chan ch).write s.params.addrWidth v r)) := by
  simp only [perform, wrReg, hostRegWrite, windowOffset_slotOffset hp r hch, leBytes_length, regAccess_slotOffset,
    slotAt_slotOffset _ _ r hch, wordOfBytes_leBytes, if_true]

/-- `WR CMD, <w>` on a channel that exists (R57, R22). -/
theorem perform_wrReg_cmd (s : State) (hp : s.params.Legal) {ch : Nat} (w : Word) (hch : ch < s.params.nch) :
    perform (wrReg s.params ch .cmd w) s = writeCmd ch w s := by
  simp only [perform, wrReg, hostRegWrite, windowOffset_slotOffset hp .cmd hch, leBytes_length, regAccess_slotOffset,
    slotAt_slotOffset _ _ .cmd hch, wordOfBytes_leBytes, if_true]

/-- All that a register write in the window can do (R18, R22 to R28): nothing; a NOP, which only selects its channel; the
write of one register of a channel; or a command issued to a channel by an aligned 32-bit write to its `CMD`. -/
inductive RegWriteEffect (s : State) (addr : Nat) (data : List Byte) : State → Prop where
  | ignored : RegWriteEffect s addr data s
  | nop (k : Nat) : RegWriteEffect s addr data (s.select k)
  | register (k : Nat) (r : Reg) :
      RegWriteEffect s addr data (s.setChan k ((s.chan k).write s.params.addrWidth (wordOfBytes data) r))
  | command (k : Nat) (channel : k < s.params.nch) (address : addr = s.params.regBase + slotOffset k .cmd)
      (width : data.length = 4) (op : opField (wordOfBytes data) ≠ 0) :
      RegWriteEffect s addr data (s.issue k (wordOfBytes data))

/-- A register write in the window answers a next state (R18), which one of these effects makes. -/
theorem hostRegWrite_effect (s : State) {addr off : Nat} (data : List Byte)
    (hw : windowOffset s.params addr = some off) :
    ∃ t, hostRegWrite addr data s = .next t ∧ RegWriteEffect s addr data t := by
  rw [hostRegWrite, hw]
  simp only
  split
  · rename_i hacc
    obtain ⟨hlen, -⟩ := (regAccess_iff _ _).1 hacc
    split
    · rename_i k hslot
      obtain ⟨hk, hoff⟩ := slotOffset_of_slotAt hslot
      by_cases hop : opField (wordOfBytes data) = 0
      · rw [writeCmd, decodeCmd_of_op_zero _ hop]
        exact ⟨_, rfl, .nop k⟩
      · rw [writeCmd_of_op_ne_zero _ _ _ hop]
        exact ⟨_, rfl, .command k hk (hoff ▸ eq_add_of_windowOffset hw) hlen hop⟩
    · exact ⟨_, rfl, .register _ _⟩
    · exact ⟨_, rfl, .ignored⟩
  · exact ⟨_, rfl, .ignored⟩

/-- A register write that answers a next state has one of these effects: outside the window it is refused (R33). -/
theorem RegWriteEffect.of_next {s t : State} {addr : Nat} {data : List Byte} (h : hostRegWrite addr data s = .next t) :
    RegWriteEffect s addr data t := by
  cases hw : windowOffset s.params addr with
  | none => rw [hostRegWrite, hw] at h; cases h
  | some off =>
    obtain ⟨u, hu, heffect⟩ := hostRegWrite_effect s data hw
    rw [hu] at h
    cases h
    exact heffect

theorem RegWriteEffect.params {s t : State} {addr : Nat} {data : List Byte} (h : RegWriteEffect s addr data t) :
    t.params = s.params := by
  cases h with
  | command k => exact issue_params s k _
  | ignored | nop | register => rfl

theorem RegWriteEffect.mem {s t : State} {addr : Nat} {data : List Byte} (h : RegWriteEffect s addr data t) :
    t.mem = s.mem := by
  cases h with
  | command k => exact issue_mem s k _
  | ignored | nop | register => rfl

/-! ### A running command under register writes (R30, R129) -/

/-- A channel's command goes on as it was: its latches, its progress, its engine state and its `CMD` (R22, R29 to R31). -/
structure KeepsRun (c d : Chan) : Prop where
  latch : d.latch = c.latch
  prog : d.prog = c.prog
  eng : d.eng = c.eng
  cmd : d.cmd = c.cmd

theorem KeepsRun.refl (c : Chan) : KeepsRun c c := ⟨rfl, rfl, rfl, rfl⟩

theorem KeepsRun.write (aw : Nat) (c : Chan) (v : Word) (r : Reg) : KeepsRun c (c.write aw v r) := by
  cases r <;> exact ⟨rfl, rfl, rfl, rfl⟩

theorem KeepsRun.raceIf (c : Chan) (f : Latch → Bool) : KeepsRun c (c.raceIf f) := by
  rcases raceIf_cases c f with h | ⟨-, h⟩ <;> rw [h] <;> exact ⟨rfl, rfl, rfl, rfl⟩

/-- The mark of a race is set, or it stays (R44). -/
theorem raceIf_raced (c : Chan) (f : Latch → Bool) : (c.raceIf f).raced = c.raced ∨ (c.raceIf f).raced = true := by
  rcases raceIf_cases c f with h | ⟨-, h⟩ <;> rw [h]
  · exact .inl rfl
  · exact .inr rfl

/-- A busy channel's command goes on through every register write; its mark of a race can only be set, and only by the
acceptance of a command by another, idle channel (R121). -/
theorem RegWriteEffect.keepsRun {s t : State} {addr : Nat} {data : List Byte} (h : RegWriteEffect s addr data t)
    {ch : Nat} (hb : (s.chan ch).eng = .busy) :
    KeepsRun (s.chan ch) (t.chan ch) ∧
      ((t.chan ch).raced = (s.chan ch).raced ∨
        (t.chan ch).raced = true ∧
          ∃ k, k ≠ ch ∧ k < s.params.nch ∧ (s.chan k).eng = .idle ∧ addr = s.params.regBase + slotOffset k .cmd ∧
            data.length = 4 ∧ opField (wordOfBytes data) ≠ 0) := by
  cases h with
  | ignored => exact ⟨.refl _, .inl rfl⟩
  | nop k => exact ⟨.refl _, .inl rfl⟩
  | register k r =>
    rcases setChan_chan_cases s k ch _ with h | ⟨rfl, h⟩ <;> rw [h]
    · exact ⟨.refl _, .inl rfl⟩
    · exact ⟨.write .., .inl (Chan.write_keepsHidden ..).raced⟩
  | command k hk haddr hlen hop =>
    cases hidle : (s.chan k).eng with
    | busy =>
      rw [issue_of_busy s k _ hidle]
      rcases setChan_chan_cases s k ch (flagsAtDrop (s.chan k)) with h | ⟨rfl, h⟩ <;> rw [h]
      · exact ⟨.refl _, .inl rfl⟩
      · exact ⟨⟨rfl, rfl, rfl, rfl⟩, .inl rfl⟩
    | idle =>
      have hne : ch ≠ k := by rintro rfl; rw [hb] at hidle; cases hidle
      rw [issue_of_idle s k _ hidle, accept_chan_other s k ch _ hne]
      exact ⟨.raceIf .., (raceIf_raced _ _).imp_right fun h => ⟨h, k, hne.symm, hk, hidle, haddr, hlen, hop⟩⟩

/-! ### What a command leaves alone, and the parameters through every step (R8, R21, R121) -/

theorem OnlyChan.refl (s : State) (ch : Nat) : OnlyChan s s ch := ⟨rfl, rfl, rfl, rfl, rfl, rfl, fun _ _ => rfl⟩

theorem complete_onlyChan (s : State) (r : DWord) (e : BitVec 4) : OnlyChan s (s.complete r e) s.cur :=
  setChan_onlyChan s s.cur _

theorem failDirty_onlyChan (s : State) (e : BitVec 4) (r : Range) : OnlyChan s (s.failDirty e r) s.cur :=
  { complete_onlyChan (s.scramble r) (Config.freeResult s.draws) e with }

theorem complete_write_onlyChan (s : State) (m : Memory) (r : DWord) (e : BitVec 4) :
    OnlyChan s (({ s with mem := m } : State).complete r e) s.cur :=
  { complete_onlyChan { s with mem := m } r e with }

theorem runEnc_onlyChan {v : Variant} {s t : State} (h : runEnc v s = .next t) : OnlyChan s t s.cur := by
  rcases runEnc_cases v s t h with ⟨e, -, rfl⟩ | ⟨-, -, -, ⟨-, rfl⟩ | ⟨-, rfl⟩⟩
  · exact complete_onlyChan ..
  · exact failDirty_onlyChan ..
  · rcases encodeRun_cases v s with ⟨-, -, ht⟩ | ⟨-, ht⟩ <;> rw [ht]
    · exact complete_write_onlyChan ..
    · exact failDirty_onlyChan ..

theorem runDec_onlyChan {v : Variant} {s t : State} (h : runDec v s = .next t) : OnlyChan s t s.cur := by
  rcases runDec_cases v s t h with ⟨e, -, rfl⟩ | ⟨-, -, -, ⟨-, rfl⟩ | ⟨-, rfl⟩⟩
  · exact complete_onlyChan ..
  · exact failDirty_onlyChan ..
  · rcases decodeRun_cases v s with ⟨xs, p, -, -, ht⟩ | ⟨e, -, ht⟩ <;> rw [ht]
    · exact complete_write_onlyChan ..
    · exact failDirty_onlyChan ..

/-- A command changes no other channel, and nothing of the machine but memory and the draw counter (R121). -/
theorem exec_onlyChan {i : Instr} {s t : State} (h : exec i s = .next t) : OnlyChan s t s.cur := by
  rw [exec_eq_kind] at h
  cases hk : i.kind with
  | nop n => rw [hk] at h; cases h; exact .refl ..
  | enc v => rw [hk] at h; exact runEnc_onlyChan h
  | dec v => rw [hk] at h; exact runDec_onlyChan h
  | bound wide w64 a => rw [hk] at h; cases h; exact complete_onlyChan ..

/-- An engine's run changes no other channel, on an illegal word too (R52, R121); `cur` becomes the channel it ran. -/
theorem runEngine_onlyChan {ch : Nat} {s t : State} (h : runEngine ch s = .next t) :
    t = s ∨ OnlyChan (s.select ch) t ch := by
  unfold runEngine at h
  split at h
  · split at h
    · exact .inr (exec_onlyChan h)
    · cases h
      exact .inr (complete_onlyChan ..)
  · cases h
    exact .inl rfl

theorem runEngine_params {ch : Nat} {s t : State} (h : runEngine ch s = .next t) : t.params = s.params := by
  rcases runEngine_onlyChan h with rfl | honly
  · rfl
  · exact honly.params

/-- A busy engine runs the command its latched word decodes to (R22, R29). -/
theorem runEngine_of_busy {ch : Nat} {s : State} {i : Instr} (hbusy : (s.chan ch).eng = .busy)
    (hdecode : decodeCmd (s.chan ch).latch.cmd = .ok i) : runEngine ch s = exec i (s.select ch) := by
  rw [runEngine, if_pos ((busy_iff _).2 hbusy), hdecode]

/-- `RUN` of a word with `OP != 0` on an idle channel: its acceptance, then the engine's run, `WAIT` still to come (R57). -/
theorem hostRun_of_idle {ch : Nat} {w : Word} {s : State} (hch : ch < s.params.nch) (hidle : (s.chan ch).eng = .idle)
    (hop : opField w ≠ 0) :
    hostRun ch w s = runEngine ch (({ s with inputs := .wait ch :: s.inputs } : State).accept ch w) := by
  simp only [hostRun, if_pos hch]
  split
  · rename_i n hnop
    exact absurd hnop (decodeCmd_ne_nop w n hop)
  · exact (if_neg (not_busy_of_idle hidle)).trans (congrArg _ (issue_of_idle { s with inputs := _ } ch w hidle))

/-- An inner step replaces at most the progress of its own channel (R31). -/
theorem innerStep_eq (s : State) (ch : Nat) : ∃ p, s.innerStep ch = s.setChan ch { s.chan ch with prog := p } := by
  unfold State.innerStep
  split
  · exact ⟨_, rfl⟩
  · exact ⟨(s.chan ch).prog, (setChan_chan s ch).symm⟩

theorem hostWait_params (ch : Nat) (s : State) : (hostWait ch s).params = s.params := by
  unfold hostWait
  split <;> rfl

theorem hostRegRead_params {addr size : Nat} {s t : State} (h : hostRegRead addr size s = .next t) :
    t.params = s.params := by
  unfold hostRegRead at h
  split at h <;> cases h
  rfl

theorem hostMemWrite_params {addr : Nat} {data : List Byte} {s t : State} (h : hostMemWrite addr data s = .next t) :
    t.params = s.params := by
  simp only [hostMemWrite] at h
  split at h
  · cases h
  · split at h <;> cases h
    rfl

theorem hostMemRead_params {addr size : Nat} {s t : State} (h : hostMemRead addr size s = .next t) :
    t.params = s.params := by
  simp only [hostMemRead] at h
  split at h
  · cases h
  · split at h <;> cases h
    rfl

/-- A `RUN` keeps the parameters: ignored, a NOP, dropped, or accepted and run (R57). -/
theorem hostRun_params {ch : Nat} {w : Word} {s t : State} (h : hostRun ch w s = .next t) : t.params = s.params := by
  simp only [hostRun] at h
  split at h
  · split at h
    · cases h
      rfl
    · split at h
      · cases h
        exact issue_params ..
      · exact (runEngine_params h).trans (issue_params ..)
  · cases h
    rfl

theorem perform_params {i : Input} {s t : State} (h : perform i s = .next t) : t.params = s.params := by
  cases i with
  | regWrite addr data => exact (RegWriteEffect.of_next h).params
  | regRead addr size => exact hostRegRead_params h
  | memWrite addr data => exact hostMemWrite_params h
  | memRead addr size => exact hostMemRead_params h
  | engine ch => exact runEngine_params h
  | tick ch =>
    obtain ⟨p, hp⟩ := innerStep_eq s ch
    cases h
    rw [hp]
    rfl
  | wait ch => cases h; exact hostWait_params ch s
  | run ch w => exact hostRun_params h
  | reset => cases h; rfl

/-- No step changes the build parameters (R8). -/
theorem step_params {s t : State} (h : step s = .next t) : t.params = s.params := by
  cases hin : s.inputs with
  | nil =>
    rw [step, hin] at h
    simp only [idleStep] at h
    split at h
    · exact runEngine_params h
    · cases h; rfl
  | cons i rest =>
    rw [step_cons s i rest hin] at h
    have hparams := perform_params h
    exact hparams

/-! ### The statements of 10_state.md -/

/-- Settles O14: the map and its offsets agree, and the last channel's registers end below 4 KiB. -/
theorem registerMapNamesEveryRegister : Obligations.RegisterMapNamesEveryRegister :=
  fun p _ r hp hch => ⟨windowOffset_slotOffset hp r hch, slotAt_slotOffset p.nch _ r hch⟩

/-- Settles O15: each field from the value of the word. -/
theorem idAndCapRead : Obligations.IdAndCapRead := by
  intro s hp
  obtain ⟨-, hnch, -⟩ := hp
  have hcap := capWord_toNat s.params hnch
  have hwide := s.params.hasWide.toNat_lt
  refine ⟨readReg_id s, readReg_cap s, getLsbD_eq_of_toNat _ _ _ ?_, getLsbD_eq_of_toNat _ _ _ ?_,
    extractLsb'_eq_of_toNat _ _ _ _ ?_, ?_, extractLsb'_eq_of_toNat _ _ _ _ ?_, extractLsb'_eq_of_toNat _ _ _ _ ?_⟩
  · omega
  · rw [Bool.toNat_true]; omega
  · change _ = 0; omega
  · rw [BitVec.extractLsb'_toNat, Nat.shiftRight_eq_div_pow]; omega
  · change _ = 32; omega
  · change _ = 0; omega

/-- Settles O16: `CAP` is a function of the parameters, which no step changes, and `ID` is a constant. -/
theorem idAndCapNeverChange : Obligations.IdAndCapNeverChange := by
  intro s t h
  have hparams := step_params h
  exact ⟨hparams, by rw [readReg_id, readReg_id], by rw [readReg_cap, readReg_cap, hparams]⟩

/-- Settles O18: the map has no register there, so a read gives 0 and a write is ignored. -/
theorem reservedOffsetsReadZeroIgnoreWrites : Obligations.ReservedOffsetsReadZeroIgnoreWrites := by
  intro s off rest hlt halign hoff
  have hslot := slotAt_reserved s.params.nch off hoff
  refine ⟨readReg_reserved s off halign hslot, fun data hin => ?_⟩
  rw [step_cons s _ rest hin]
  refine hostRegWrite_ignored _ data (windowOffset_add s.params off hlt) fun _ ch r h => ?_
  exact Slot.noConfusion (hslot.symm.trans h)

/-- Settles O21: the write issues the word, and the idle channel accepts it. -/
theorem commandWriteIsAccepted : Obligations.CommandWriteIsAccepted := by
  intro s ch w rest hp hcount hch hidle hop hin
  have hstep : step s = .next (({ s with inputs := rest } : State).accept ch w) := by
    rw [step_cons s _ rest hin, perform_wrReg_cmd { s with inputs := rest } hp w hch,
      writeCmd_of_op_ne_zero _ _ _ (opField_ne_zero hop), issue_of_idle { s with inputs := rest } ch w hidle]
  have hself := accept_chan_self { s with inputs := rest } ch w (hcount ▸ hch)
  refine ⟨_, hstep, rfl, rfl, rfl, rfl, ?_⟩
  rw [hself]
  refine ⟨rfl, rfl, rfl, rfl, rfl, rfl, rfl, rfl, pairVal_toNat .., pairVal_toNat .., pairVal_toNat .., pairVal_toNat ..,
    rfl, rfl, rfl, rfl, rfl, rfl, rfl, rfl, rfl, rfl, fun k hk => ?_⟩
  rw [accept_chan_other _ ch k w hk]
  exact raceIf_cases (s.chan k) _

/-- Settles O22: the busy channel drops the word. -/
theorem commandWriteWhileBusyIsDropped : Obligations.CommandWriteWhileBusyIsDropped := by
  intro s ch w rest hp hch hbusy hop hin
  have hstep : step s = .next (({ s with inputs := rest } : State).setChan ch (flagsAtDrop (s.chan ch))) := by
    rw [step_cons s _ rest hin, perform_wrReg_cmd { s with inputs := rest } hp w hch,
      writeCmd_of_op_ne_zero _ _ _ (opField_ne_zero hop), issue_of_busy { s with inputs := rest } ch w hbusy]
    rfl
  have hexists : ch < s.chans.length := lt_of_busy s ch ((busy_iff _).2 hbusy)
  exact ⟨_, hstep, setChan_chan_self { s with inputs := rest } ch _ hexists, rfl, setChan_onlyChan ..⟩

/-- A register write to a channel that exists, but to `CMD`: the step, the channel after it, and the frame (R23 to R27). -/
theorem step_wrReg {s : State} {ch : Nat} {r : Reg} {v : Word} {rest : List Input} (hp : s.params.Legal)
    (hcount : s.chans.length = s.params.nch) (hch : ch < s.params.nch) (hr : r ≠ .cmd)
    (hin : s.inputs = wrReg s.params ch r v :: rest) :
    ∃ t, step s = .next t ∧ t.chan ch = (s.chan ch).write s.params.addrWidth v r ∧ t.mem = s.mem ∧
      OnlyChan { s with inputs := rest } t ch := by
  have hstep := (step_cons s _ rest hin).trans (perform_wrReg { s with inputs := rest } hp v hch hr)
  exact ⟨_, hstep, setChan_chan_self { s with inputs := rest } ch _ (hcount ▸ hch), rfl, setChan_onlyChan ..⟩

/-- Settles O23. -/
theorem statusWriteClearsDoneAndDropped : Obligations.StatusWriteClearsDoneAndDropped := by
  intro s ch v rest hp hcount hch hin
  obtain ⟨t, hstep, hchan, hmem, honly⟩ := step_wrReg hp hcount hch (by decide) hin
  refine ⟨t, hstep, hmem, honly, ?_⟩
  rw [hchan, Chan.write, writeStatus, and_not_eq_ite, and_not_eq_ite]

/-- What the registers read after such a write: the one written what its rule makes of the word, every other as before. -/
theorem step_wrReg_read {s : State} {ch : Nat} {r : Reg} {v : Word} {rest : List Input} (hp : s.params.Legal)
    (hcount : s.chans.length = s.params.nch) (hch : ch < s.params.nch) (hr : r ≠ .cmd)
    (hin : s.inputs = wrReg s.params ch r v :: rest) :
    ∃ t, step s = .next t ∧ KeepsHidden (s.chan ch) (t.chan ch) ∧
      (t.chan ch).read r = ((s.chan ch).write s.params.addrWidth v r).read r ∧
      (∀ q, q ≠ r → (t.chan ch).read q = (s.chan ch).read q) ∧
      t.mem = s.mem ∧ OnlyChan { s with inputs := rest } t ch := by
  obtain ⟨t, hstep, hchan, hmem, honly⟩ := step_wrReg hp hcount hch hr hin
  exact ⟨t, hstep, hchan ▸ Chan.write_keepsHidden .., by rw [hchan],
    fun q hq => by rw [hchan, Chan.read_write_ne _ _ v hq], hmem, honly⟩

/-- Settles O24: a write stores the word in its register, less the hardwired bits of an upper half, and no register's write
shows in another. -/
theorem operandRegistersReadBack : Obligations.OperandRegistersReadBack := by
  intro s ch v rest hp hcount hch
  have haw : 32 ≤ s.params.addrWidth := by
    obtain ⟨-, -, haw, -, -⟩ := hp
    exact haw
  constructor
  · intro r hr hin
    have hne : r ≠ .cmd := by rintro rfl; simp at hr
    obtain ⟨t, hstep, hhidden, hread, hframe⟩ := step_wrReg_read hp hcount hch hne hin
    have hstored : ((s.chan ch).write s.params.addrWidth v r).read r = v := by
      rcases hr with rfl | rfl | rfl | rfl | rfl | rfl | rfl
      case inr.inl | inr.inr.inl => exact addrLo_of_le _ v haw
      all_goals rfl
    exact ⟨t, hstep, hhidden, hread.trans hstored, hframe⟩
  · intro r hr hin
    have hne : r ≠ .cmd := by rintro rfl; simp at hr
    obtain ⟨t, hstep, hhidden, hread, hframe⟩ := step_wrReg_read hp hcount hch hne hin
    have hstored : (((s.chan ch).write s.params.addrWidth v r).read r).toNat =
        v.toNat % 2 ^ (s.params.addrWidth - 32) := by
      rcases hr with rfl | rfl <;> exact addrHi_toNat _ v
    exact ⟨t, hstep, hhidden, hread ▸ hstored, hframe⟩

/-- Settles O25: offsets 0 and 4 name no channel's register, and a write to `RESULT` writes the channel back as it was. -/
theorem readOnlyRegistersIgnoreWrites : Obligations.ReadOnlyRegistersIgnoreWrites := by
  intro s rest hp
  constructor
  · rintro data (hin | hin) <;> rw [step_cons s _ rest hin]
    · exact hostRegWrite_ignored _ data (windowOffset_add s.params 0 (by decide)) fun _ _ _ h => nomatch h
    · exact hostRegWrite_ignored _ data (windowOffset_add s.params 4 (by decide)) fun _ _ _ h => nomatch h
  · intro ch v r hch hr hin
    have hne : r ≠ .cmd := by rintro rfl; simp at hr
    have hsame : (s.chan ch).write s.params.addrWidth v r = s.chan ch := by rcases hr with rfl | rfl <;> rfl
    have hstep := (step_cons s _ rest hin).trans (perform_wrReg { s with inputs := rest } hp v hch hne)
    have hnothing : ({ s with inputs := rest } : State).setChan ch ((s.chan ch).write s.params.addrWidth v r) =
        { s with inputs := rest } := by
      rw [hsame]
      exact setChan_chan { s with inputs := rest } ch
    exact ⟨_, hstep.trans (congrArg _ hnothing), rfl, rfl, .refl ..⟩

/-- Settles O26: by the effects that a register write can have. -/
theorem registerWritesLeaveRunningCommand : Obligations.RegisterWritesLeaveRunningCommand := by
  intro s t addr ch data rest hin hbusy hstep
  rw [step_cons s _ rest hin] at hstep
  have heffect : RegWriteEffect { s with inputs := rest } addr data t := .of_next hstep
  obtain ⟨⟨hlatch, hprog, heng, hcmd⟩, hraced⟩ := heffect.keepsRun hbusy
  exact ⟨hlatch, hprog, heng.trans hbusy, hcmd, heffect.mem, hraced⟩

/-- Every channel is blank after reset (R124). -/
theorem resetWith_chan (p : Params) (ch : Nat) : (State.resetWith p).chan ch = .blank := by
  rcases Nat.lt_or_ge ch (State.resetWith p).chans.length with hlt | hge
  · exact List.eq_of_mem_replicate (chan_mem _ ch hlt)
  · exact chan_of_le _ ch hge

/-- Settles O27. -/
theorem resetValues : Obligations.ResetValues := by
  intro p _
  refine ⟨rfl, readReg_id _, readReg_cap _, by simp, fun ch hch => ⟨by rw [resetWith_chan]; rfl, fun r => ?_⟩⟩
  rw [readReg_slotOffset _ ch r hch, resetWith_chan, blank_read]
  rfl

/-- Settles O6: the agenda's entry reaches `exec` with the channel selected; an idle channel's `RUN` through its
acceptance. -/
theorem stepRunsTheDecodedCommand : Obligations.StepRunsTheDecodedCommand := by
  refine ⟨?_, ?_, ?_⟩
  · intro s ch rest i hin hbusy hdecode
    rw [step_cons s _ rest hin]
    exact runEngine_of_busy hbusy hdecode
  · intro s ch w rest i hin hcount hch hidle hop hdecode
    have hself := accept_chan_self { s with inputs := .wait ch :: rest } ch w (hcount ▸ hch)
    rw [step_cons s _ rest hin, perform]
    refine (hostRun_of_idle (s := { s with inputs := rest }) hch hidle hop).trans ?_
    exact runEngine_of_busy (by rw [hself]; rfl) (by rw [hself]; exact hdecode)
  · intro s ch n w rest hin hch hdecode
    rw [step_cons s _ rest hin]
    simp only [perform, hostRun, if_pos hch, hdecode]
    rfl

/-- Settles O11. -/
theorem innerStepChangesOnlyProgress : Obligations.InnerStepChangesOnlyProgress := by
  intro s ch rest hin
  obtain ⟨p, hp⟩ := innerStep_eq { s with inputs := rest } ch
  refine ⟨_, (step_tick s ch rest hin).trans (congrArg _ hp), rfl, rfl, setChan_onlyChan .., ?_⟩
  rcases setChan_chan_cases { s with inputs := rest } ch ch _ with h | ⟨-, h⟩ <;> rw [h] <;> rfl

/-- Settles O17. -/
theorem registerAccessWidths : Obligations.RegisterAccessWidths := by
  intro s off rest hoff
  have hwindow := windowOffset_add s.params off hoff
  refine ⟨fun size hin => ?_, fun data hin => ⟨fun haccess => ?_, ?_⟩⟩
  · rw [step_cons s _ rest hin]
    simp only [perform, hostRegRead, hwindow, State.readReg, regAccess_iff]
    rfl
  · rw [step_cons s _ rest hin]
    exact hostRegWrite_ignored _ data hwindow fun h => absurd ((regAccess_iff _ _).1 h) haccess
  · obtain ⟨t, hnext, -⟩ := hostRegWrite_effect { s with inputs := rest } data hwindow
    exact ⟨t, (step_cons s _ rest hin).trans hnext⟩

/-- Settles O19: each field from the value of the word. -/
theorem statusFieldsRead : Obligations.StatusFieldsRead := by
  intro c
  have hstatus := statusWord_toNat c
  have hbusy := c.busy.toNat_lt
  have hdone := c.done.toNat_lt
  have herr := c.err.isLt
  have hdropped := c.dropped.toNat_lt
  refine ⟨getLsbD_eq_of_toNat _ _ c.busy ?_, getLsbD_eq_of_toNat _ _ _ ?_, extractLsb'_eq_of_toNat _ _ _ _ ?_,
    extractLsb'_eq_of_toNat _ _ _ _ ?_, getLsbD_eq_of_toNat _ _ _ ?_, extractLsb'_eq_of_toNat _ _ _ _ ?_⟩
  · omega
  · omega
  · change _ = 0; omega
  · omega
  · omega
  · change _ = 0; omega

end Sys2Proof.Machine

/-! The length of what the encoder writes (R95, R96): the width selector keeps the exception budget (R69), so an
exception list costs no more bits than the width it saves; a full block takes at most its elements' bytes and a
header, and only the last block pays for padding. Then: an encode stays in its output buffer however it ends (R40). -/

namespace Sys2Proof.Machine

/-! ### The selected width (R69, R71) -/

/-- No value of `W` bits is an exception at width `W` (R71). -/
theorem countOver_eq_zero {vals : List Nat} {w : Nat} (h : ∀ x ∈ vals, x < 2 ^ w) : countOver vals w = 0 :=
  List.countP_eq_zero.2 fun x hx => by simpa using h x hx

/-- The search of R69 ends within its fuel, at a width that keeps the budget if the last one does. -/
theorem selectFrom_spec (vals : List Nat) (fuel b : Nat)
    (hlast : countOver vals (b + fuel) ≤ budget vals.length) :
    selectFrom vals fuel b ≤ b + fuel ∧ countOver vals (selectFrom vals fuel b) ≤ budget vals.length := by
  induction fuel generalizing b with
  | zero => exact ⟨le_rfl, hlast⟩
  | succ fuel ih =>
    rw [selectFrom]
    split
    · rename_i hb
      exact ⟨Nat.le_add_right _ _, hb⟩
    · have hshift : b + (fuel + 1) = b + 1 + fuel := by omega
      rw [hshift] at hlast ⊢
      exact ih (b + 1) hlast

/-- The selected width is at most `W` and keeps the exception budget `floor(c/32)` (R69). -/
theorem selectB_spec {vals : List Nat} {w : Nat} (h : ∀ x ∈ vals, x < 2 ^ w) :
    selectB vals w ≤ w ∧ countOver vals (selectB vals w) ≤ vals.length / 32 := by
  have hlast : countOver vals (0 + w) ≤ budget vals.length := by
    rw [Nat.zero_add, countOver_eq_zero h]
    exact Nat.zero_le _
  obtain ⟨hle, hbudget⟩ := selectFrom_spec vals w 0 hlast
  exact ⟨hle.trans_eq (Nat.zero_add w), hbudget⟩

/-- There are as many exceptions as values that do not fit (R69, R73). -/
theorem exceptions_length (vals : List Nat) (b : Nat) : (exceptions vals b).length = countOver vals b := by
  suffices h : ∀ j, (exceptionsFrom b j vals).length = countOver vals b from h 0
  induction vals with
  | nil => exact fun _ => rfl
  | cons x xs ih =>
    intro j
    rw [countOver, List.countP_cons, exceptionsFrom]
    by_cases hx : 2 ^ b ≤ x
    · simp [hx, ih, countOver]
    · simp [hx, ih, countOver]

/-! ### The parts of a block -/

/-- The length of an exception list: a count, and for each entry a slot and a high part (R86, R87). -/
theorem patchEncode_length (vals : List Nat) (b w : Nat) :
    (patchEncode vals b w).length =
      if countOver vals b = 0 then 0 else 1 + countOver vals b * (1 + highBytes w b) := by
  simp only [patchEncode, List.isEmpty_iff_length_eq_zero, exceptions_length]
  split
  · rfl
  · simp [patchEntry, List.length_flatMap, exceptions_length]

/-- Where the budget is kept, an exception list takes no more bits than `W - b` for every value (R95): each of its at
most `floor(c/32)` entries stands for 32 values. -/
theorem patchEncode_bits_le {vals : List Nat} {b w : Nat} (hfits : ∀ x ∈ vals, x < 2 ^ w)
    (hbudget : countOver vals b ≤ vals.length / 32) :
    8 * (patchEncode vals b w).length ≤ (w - b) * vals.length := by
  rw [patchEncode_length]
  split
  · exact Nat.zero_le _
  · rename_i hcount
    have hbw : b < w := by
      obtain ⟨x, hx, hover⟩ := List.countP_pos_iff.1 (Nat.pos_of_ne_zero hcount)
      exact (Nat.pow_lt_pow_iff_right (by decide)).1 ((of_decide_eq_true hover).trans_lt (hfits x hx))
    generalize countOver vals b = q at *
    have hq : 32 * q ≤ vals.length := by omega
    have hd : 1 ≤ w - b := by omega
    have hhigh : 8 * highBytes w b ≤ (w - b) + 7 := by unfold highBytes ceilDiv; omega
    generalize highBytes w b = hb at *
    generalize w - b = d at *
    calc 8 * (1 + q * (1 + hb)) = 8 + q * (8 + 8 * hb) := by ring
      _ ≤ 8 + q * (8 + (d + 7)) := by gcongr
      _ ≤ d * (32 * q) := by nlinarith [Nat.pos_of_ne_zero hcount]
      _ ≤ d * vals.length := by gcongr

/-- The payload has `4*L*P` bytes (R78). -/
theorem pack_length (lo : List Nat) (b lanes : Nat) : (pack lo b lanes).length = payloadSize lo.length lanes b := by
  simp only [pack, List.length_flatMap, leBytes_length, List.map_const', List.length_range, List.sum_replicate,
    smul_eq_mul, payloadSize]
  ring

/-- The payload of a full block has no padding (R78). -/
theorem payloadSize_full (lanes b : Nat) (h : 0 < lanes) : payloadSize (32 * lanes) lanes b = 4 * lanes * b := by
  have hm : laneLen (32 * lanes) lanes = 32 := by
    rw [laneLen, ceilDiv, Nat.add_sub_assoc h, Nat.mul_comm, Nat.mul_add_div h, Nat.div_eq_of_lt (by omega)]
  have hp : laneWords (32 * lanes) lanes b = b := by
    rw [laneWords, hm, ceilDiv]; omega
  rw [payloadSize, hp]

/-- The payload of any block: its values' bits, the padding slots of the lanes, and the padding of their last words. -/
theorem payloadSize_bits_le (c lanes b : Nat) :
    8 * payloadSize c lanes b ≤ b * (c + lanes - 1) + 31 * lanes := by
  have hm : lanes * laneLen c lanes ≤ c + lanes - 1 := Nat.mul_div_le _ _
  have hp : 32 * laneWords c lanes b ≤ laneLen c lanes * b + 31 := by unfold laneWords ceilDiv; omega
  calc 8 * payloadSize c lanes b = lanes * (32 * laneWords c lanes b) := by unfold payloadSize; ring
    _ ≤ lanes * (laneLen c lanes * b + 31) := by gcongr
    _ = b * (lanes * laneLen c lanes) + 31 * lanes := by ring
    _ ≤ b * (c + lanes - 1) + 31 * lanes := by gcongr

theorem encodeBlock_length (v : Variant) (vals : List Nat) :
    (encodeBlock v vals).length = 3 + payloadSize vals.length v.lanes (selectB vals v.width)
      + (patchEncode vals (selectB vals v.width) v.width).length := by
  simp only [encodeBlock, List.length_append, leBytes_length, pack_length, lowParts_length]

/-! ### Blocks and streams (R96) -/

/-- A block holds 32 values for each lane, in both block widths (R7). -/
theorem bs_eq_lanes (v : Variant) : v.bs = 32 * v.lanes := by
  unfold Variant.bs Variant.lanes blockSize laneCount
  split <;> rfl

/-- An element of `W` bits takes `E` bytes (R7). -/
theorem width_eq_size (v : Variant) : v.width = 8 * v.size := by
  unfold Variant.width Variant.size elemSize elemWidth
  split <;> rfl

/-- A full block takes at most a header and its elements' bytes. -/
theorem encodeBlock_length_full (v : Variant) (vals : List Nat) (hfits : Fits v vals) (hfull : vals.length = v.bs) :
    (encodeBlock v vals).length ≤ 3 + vals.length * v.size := by
  obtain ⟨hb, hbudget⟩ := selectB_spec hfits
  have hpatch := patchEncode_bits_le hfits hbudget
  rw [encodeBlock_length, hfull, bs_eq_lanes, payloadSize_full _ _ (lanes_pos v), ← bs_eq_lanes, ← hfull]
  generalize selectB vals v.width = b at *
  have hbits : 8 * (4 * v.lanes * b) = b * vals.length := by rw [hfull, bs_eq_lanes]; ring
  have hsplit : b * vals.length + (v.width - b) * vals.length = 8 * (vals.length * v.size) := by
    rw [← Nat.add_mul, Nat.add_sub_cancel' hb, width_eq_size]; ring
  omega

/-- Any block takes at most a header, the bytes of its elements and of `L - 1` more, and a word for each lane. -/
theorem encodeBlock_length_le (v : Variant) (vals : List Nat) (hfits : Fits v vals) :
    (encodeBlock v vals).length ≤ 3 + (vals.length + v.lanes - 1) * v.size + 4 * v.lanes := by
  obtain ⟨hb, hbudget⟩ := selectB_spec hfits
  have hpatch := patchEncode_bits_le hfits hbudget
  have hpayload := payloadSize_bits_le vals.length v.lanes (selectB vals v.width)
  rw [encodeBlock_length]
  generalize selectB vals v.width = b at *
  have hlanes := lanes_pos v
  have hmono : (v.width - b) * vals.length ≤ (v.width - b) * (vals.length + v.lanes - 1) :=
    Nat.mul_le_mul_left _ (by omega)
  have hsplit : b * (vals.length + v.lanes - 1) + (v.width - b) * (vals.length + v.lanes - 1) =
      8 * ((vals.length + v.lanes - 1) * v.size) := by
    rw [← Nat.add_mul, Nat.add_sub_cancel' hb, width_eq_size]; ring
  omega

/-- All blocks but the last are full, so only one pays for padding. -/
theorem encodeBlocks_length_le (v : Variant) (k : Nat) (xs : List Nat) (hfits : Fits v xs)
    (hall : xs.length ≤ (k + 1) * v.bs) (hfull : k * v.bs ≤ xs.length) :
    ((cut v.bs (k + 1) xs).flatMap (encodeBlock v)).length ≤
      3 * (k + 1) + (xs.length + v.lanes - 1) * v.size + 4 * v.lanes := by
  induction k generalizing xs with
  | zero =>
    have hone : xs.take v.bs = xs := List.take_of_length_le (by omega)
    simp only [cut, List.flatMap_cons, List.flatMap_nil, List.append_nil, hone]
    have := encodeBlock_length_le v xs hfits
    omega
  | succ k ih =>
    have hbs : v.bs ≤ xs.length := le_trans (Nat.le_mul_of_pos_left _ k.succ_pos) hfull
    have htake : (xs.take v.bs).length = v.bs := by rw [List.length_take]; omega
    have hhead := encodeBlock_length_full v (xs.take v.bs) (fun x hx => hfits x (List.mem_of_mem_take hx)) htake
    have htail := ih (xs.drop v.bs) (fun x hx => hfits x (List.mem_of_mem_drop hx))
      (by rw [List.length_drop]; rw [Nat.add_mul _ 1] at hall; omega)
      (by rw [List.length_drop]; rw [Nat.add_mul] at hfull; omega)
    rw [cut, List.flatMap_cons, List.length_append]
    rw [htake] at hhead
    rw [List.length_drop] at htail
    have hlanes := lanes_pos v
    have hsum : v.bs * v.size + (xs.length - v.bs + v.lanes - 1) * v.size =
        (xs.length + v.lanes - 1) * v.size := by
      rw [← Nat.add_mul]; congr 1; omega
    omega

theorem deltasFrom_length (v : Variant) (prev : Nat) (xs : List Nat) : (deltasFrom v prev xs).length = xs.length := by
  induction xs generalizing prev with
  | nil => rfl
  | cons x xs ih => simp [deltasFrom, ih]

theorem deltas_length (v : Variant) (xs : List Nat) : (deltas v xs).length = xs.length := by
  cases xs with
  | nil => rfl
  | cons x xs => simp [deltas, deltasFrom_length]

theorem deltasFrom_fits (v : Variant) (prev : Nat) (xs : List Nat) : Fits v (deltasFrom v prev xs) := by
  induction xs generalizing prev with
  | nil => exact fun _ hx => nomatch hx
  | cons x xs ih =>
    intro d hd
    rcases List.mem_cons.1 hd with rfl | hd
    · unfold deltaOf
      split <;> exact residue_lt _ _
    · exact ih x d hd

/-- Slot values are residues modulo `2^W`, whatever the elements are (R59). -/
theorem deltas_fits (v : Variant) (xs : List Nat) : Fits v (deltas v xs) := by
  cases xs with
  | nil => exact fun _ hx => nomatch hx
  | cons x xs =>
    intro d hd
    rcases List.mem_cons.1 hd with rfl | hd
    · exact Nat.two_pow_pos _
    · exact deltasFrom_fits v x xs d hd

/-- `WCB(N)` for a count that is not 0, by the variant's constants (R95). -/
theorem Variant.wcb_of_pos (v : Variant) {n : Nat} (h : 0 < n) :
    v.wcb n = (n + v.lanes) * v.size + 3 * blockCount n v.bs + 4 * v.lanes :=
  if_neg h.ne'

/-- A stream is no longer than `WCB(N)` (R96), also for elements wider than `W` bits, of which it keeps the residues. -/
theorem stream_length_le_wcb (v : Variant) (xs : List Nat) : (stream v xs).length ≤ v.wcb xs.length := by
  cases xs with
  | nil => exact Nat.zero_le _
  | cons x xs =>
    have hn : 0 < (x :: xs).length := Nat.succ_pos _
    rw [Variant.wcb_of_pos v hn, stream, List.length_append, leBytes_length]
    have hlen := deltas_length v (x :: xs)
    obtain ⟨hall, hfull⟩ := blocks_cover (x :: xs).length v.bs (bs_pos v)
    rw [← hlen] at hn hall hfull ⊢
    have hlanes := lanes_pos v
    have hfits := deltas_fits v (x :: xs)
    generalize deltas v (x :: xs) = ds at *
    obtain ⟨k, hk⟩ : ∃ k, ceilDiv ds.length v.bs = k + 1 :=
      Nat.exists_eq_succ_of_ne_zero fun h => by rw [h, Nat.zero_mul] at hall; omega
    rw [hk] at hall hfull
    rw [blockCount, hk]
    have hblocks := encodeBlocks_length_le v k ds hfits hall hfull
    have hbase : v.size + (ds.length + v.lanes - 1) * v.size = (ds.length + v.lanes) * v.size := by
      rw [Nat.add_comm, ← Nat.succ_mul, Nat.succ_eq_add_one, Nat.sub_add_cancel (by omega)]
    omega

/-! ### An encode stays in its buffer (R40) -/

/-- What is the same outside a range is the same outside a larger one with the same base. -/
theorem SameOutside.mono {m n : Memory} {r q : Range} (h : SameOutside m n r) (hbase : r.base = q.base)
    (hsize : r.size ≤ q.size) : SameOutside m n q := by
  intro a ha
  refine h a ?_
  simp only [Range.has, decide_eq_false_iff_not] at ha ⊢
  omega

/-- The pre-checks make room for the worst case (R103 check 4). -/
theorem wcb_le_of_precheckEnc {p : Params} {v : Variant} {l : Latch} (h : precheckEnc p v l = none) :
    v.wcb l.count ≤ l.dstCap.toNat := by
  obtain ⟨-, -, -, hcap, -⟩ := (precheck_eq_none ..).1 h
  exact hcap

theorem encOutput_length_le (v : Variant) (s : State) :
    (encOutput v s).length ≤ v.wcb s.curChan.latch.count := by
  have h := stream_length_le_wcb v (encInput v s)
  rwa [encInput, elemsAt_length] at h

/-- Settles O34: a pre-check leaves memory alone; behind the pre-checks an error leaves all but `WCB(N)` bytes of the
buffer alone, and a success writes a stream no longer than that. -/
theorem encodeStaysInCapacity : Obligations.EncodeStaysInCapacity := by
  intro v s t hcur hexec
  rw [exec_enc] at hexec
  rcases runEnc_cases v s t hexec with ⟨e, -, rfl⟩ | ⟨hpre, -, -, hend⟩
  · exact fun _ _ => rfl
  · have hcap := wcb_le_of_precheckEnc hpre
    have hdirty (err : BitVec 4) :
        SameOutside s.mem (s.failDirty err (encDirty v s.curChan.latch)).mem (encOut s.curChan.latch) :=
      (failDirty_spec s err _ hcur).2.mono rfl hcap
    rcases hend with ⟨-, rfl⟩ | ⟨-, rfl⟩
    · exact hdirty _
    · rcases encodeRun_cases v s with ⟨-, -, ht⟩ | ⟨-, ht⟩ <;> rw [ht]
      · exact write_sameOutside s.mem (encOut s.curChan.latch) _ ((encOutput_length_le v s).trans hcap)
      · exact hdirty _

end Sys2Proof.Machine

/-! Memory as a decode, a raced command and a host's access leave it (20_memory.md): a decode writes only its elements
(R40, R112), a race leaves every byte outside the write range alone (R44), a device register in a buffer is refused
(R38), and a host reads and writes memory by its own path (R33, R43, R44). -/

namespace Sys2Proof.Machine

/-! ### However a decode ends (R40, R112) -/

/-- The elements of a stream that passes the reader fill the output exactly (R101). -/
theorem elemBytes_length_of_done {v : Variant} {s : State} {xs : List Nat} {p : Progress} {m : Bool}
    (h : decOutcome v s = .done xs p m) :
    (elemBytes v.size xs).length = (decOut v s.curChan.latch).size := by
  obtain ⟨hcount, -⟩ := decodeStream_done _ _ _ _ _ _ h
  rw [elemBytes_length, hcount, decOut]

/-- The execution of a decode completes with a code of R110 and writes only its elements, on a corrupt stream too. -/
theorem decodeRun_spec (v : Variant) (s : State) (hcur : s.cur < s.chans.length) :
    SameOutside s.mem (decodeRun v s.curChan.latch s).mem (decOut v s.curChan.latch) ∧
      ∃ e : BitVec 4, e.toNat ≤ 7 ∧ CompletedWith s (decodeRun v s.curChan.latch s) e := by
  rcases decodeRun_cases v s with ⟨xs, p, hdone, -, ht⟩ | ⟨e, he, ht⟩ <;> rw [ht]
  · obtain ⟨hcompleted, -, -⟩ := complete_write_spec s s.curChan.latch.dst.toNat (elemBytes v.size xs)
      (BitVec.ofNat 64 p.offset) hcur
    exact ⟨write_sameOutside s.mem (decOut v s.curChan.latch) _ (elemBytes_length_of_done hdone).le,
      0, Nat.zero_le 7, hcompleted⟩
  · have hcode : e.toNat ≤ 7 := by
      rcases he with rfl | ⟨rfl, -⟩ <;> exact ErrCode.code_le_seven _
    obtain ⟨hcompleted, hframe⟩ := failDirty_spec s e (decOut v s.curChan.latch) hcur
    exact ⟨hframe, e, hcode, hcompleted⟩

/-- Settles O39: by the ways a decode can end; a pre-check's end touches no memory. -/
theorem decodeNeverWritesOutsideItsOutput : Obligations.DecodeNeverWritesOutsideItsOutput := by
  intro v s t hcur hexec
  rw [exec_dec] at hexec
  rcases runDec_cases v s t hexec with ⟨e, -, rfl⟩ | ⟨-, -, -, ⟨-, rfl⟩ | ⟨-, rfl⟩⟩
  · obtain ⟨hcompleted, -, -⟩ := failClean_spec s e hcur
    exact ⟨fun _ _ => rfl, e.code, e.code_le_seven, hcompleted⟩
  · obtain ⟨hcompleted, hframe⟩ := failDirty_spec s s.anyCode (decOut v s.curChan.latch) hcur
    exact ⟨hframe, s.anyCode, anyCode_le_seven s, hcompleted⟩
  · exact decodeRun_spec v s hcur

/-! ### Raced commands and device buffers (R38, R44) -/

/-- Settles O44: a raced command behind its pre-checks ends with a draw over its write range, and with a free code. -/
theorem racedCommandStaysInItsRange : Obligations.RacedCommandStaysInItsRange := by
  intro v s hraced
  refine ⟨fun hready => ⟨s.anyCode, anyCode_le_seven s, _, ?_, failDirty_spec s _ _ hready.current⟩,
    fun hready => ⟨s.anyCode, anyCode_le_seven s, _, ?_, failDirty_spec s _ _ hready.current⟩⟩
  · rw [exec_enc_of_ready v s hready, if_pos hraced]
  · rw [exec_dec_of_ready v s hready, if_pos hraced]

/-- An encode behind its pre-checks with a device register in a buffer is refused (R38). -/
theorem runEnc_of_device {v : Variant} {s : State} (hpre : precheckEnc s.params v s.curChan.latch = none)
    (hdev : onDevice s.port (encIn v s.curChan.latch) = true ∨ onDevice s.port (encOut s.curChan.latch) = true) :
    runEnc v s = .refused .deviceBuffer := by
  simp only [runEnc, hpre, Bool.or_eq_true, if_pos hdev]

/-- A decode behind its pre-checks with a device register in a buffer is refused (R38). -/
theorem runDec_of_device {v : Variant} {s : State} (hpre : precheckDec s.params v s.curChan.latch = none)
    (hdev : onDevice s.port (decIn s.curChan.latch) = true ∨ onDevice s.port (decOut v s.curChan.latch) = true) :
    runDec v s = .refused .deviceBuffer := by
  simp only [runDec, hpre, Bool.or_eq_true, if_pos hdev]

/-- Settles O41. -/
theorem deviceBuffersAreRefused : Obligations.DeviceBuffersAreRefused := fun v s =>
  ⟨fun hpre hdev => (exec_enc v s).trans (runEnc_of_device hpre hdev),
    fun hpre hdev => (exec_dec v s).trans (runDec_of_device hpre hdev)⟩

/-! ### The hosts' memory (R33, R43, R44) -/

theorem valid_iff (r : Range) (addrWidth : Nat) :
    r.valid addrWidth = true ↔ r.size = 0 ∨ r.base + r.size ≤ 2 ^ addrWidth := by simp [Range.valid]

/-- A host read of memory that exists and is no device answers its bytes (R33, R44). -/
theorem hostMemRead_next {addr size : Nat} {s : State} (hvalid : size = 0 ∨ addr + size ≤ 2 ^ s.params.addrWidth)
    (hdev : onDevice s.port { base := addr, size := size } = false) :
    hostMemRead addr size s =
      .next { s with busData := (List.range size).map (s.hostByte addr), draws := s.draws + 1 } := by
  simp only [hostMemRead, (valid_iff ⟨addr, size⟩ _).2 hvalid, hdev]
  rfl

/-- A host write to memory that exists and is no device stores its bytes and marks the races (R33, R44). -/
theorem hostMemWrite_next {addr : Nat} {data : List Byte} {s : State}
    (hvalid : data.length = 0 ∨ addr + data.length ≤ 2 ^ s.params.addrWidth)
    (hdev : onDevice s.port { base := addr, size := data.length } = false) :
    hostMemWrite addr data s =
      .next { s.raceWrite { base := addr, size := data.length } with mem := s.mem.write addr data } := by
  simp only [hostMemWrite, (valid_iff ⟨addr, data.length⟩ _).2 hvalid, hdev]
  rfl

/-- The empty range has no address. -/
@[simp] theorem none_has (a : Nat) : Range.none.has a = false := by simp [Range.has, Range.none]

/-- A command writes only where R125 lets an abandoned one have written: a pre-check can but empty the range (log 9). -/
theorem writeRange_eq_or (p : Params) (l : Latch) : writeRange p l = abandonedRange l ∨ writeRange p l = .none := by
  simp only [writeRange, abandonedRange]
  cases latchKind l with
  | none => exact .inr rfl
  | some k =>
    cases k with
    | enc v => exact ite_eq_or_eq ..
    | dec v => exact ite_eq_or_eq ..
    | nop | bound => exact .inr rfl

/-- A byte outside the ranges of the busy commands is settled (R44). -/
theorem hostByte_of_outside (s : State) (addr i : Nat)
    (h : ∀ c ∈ s.chans, c.eng = .busy → (abandonedRange c.latch).has (addr + i) = false) :
    s.hostByte addr i = s.mem.get (addr + i) := by
  have hsettled : s.unsettled (addr + i) = false := by
    refine List.any_eq_false.2 fun c hc => ?_
    rw [Bool.and_eq_true, busy_iff]
    rintro ⟨hbusy, hin⟩
    rcases writeRange_eq_or s.params c.latch with hr | hr <;> rw [hr] at hin
    · exact absurd (h c hc hbusy) (by simp [hin])
    · exact absurd (none_has (addr + i)) (by simp [hin])
  rw [State.hostByte, hsettled]
  rfl

/-- Settles O47: the read answers, byte by byte, what `hostByte` gives. -/
theorem hostReadsSettledMemory : Obligations.HostReadsSettledMemory := by
  intro s addr size rest hin hvalid hdev
  have hstep := (step_cons s _ rest hin).trans (hostMemRead_next (s := { s with inputs := rest }) hvalid hdev)
  refine ⟨_, hstep, rfl, rfl, by simp, fun i hi hout => ?_⟩
  have hbyte := hostByte_of_outside { s with inputs := rest } addr i hout
  simpa [hi] using hbyte

/-- What a host's write leaves of a channel: its own record, or the mark of a race (R44). -/
theorem raceWrite_chan (s : State) (r : Range) (k : Nat) : (s.raceWrite r).chan k = (s.chan k).raceIf (hits s r) := by
  rcases Nat.lt_or_ge k s.chans.length with hlt | hge
  · simp [State.chan, hlt]
  · rw [chan_of_le s k hge, blank_raceIf, chan_of_le _ k (by simpa using hge)]

theorem raceIf_eq (c : Chan) (f : Latch → Bool) :
    c.raceIf f = if c.eng = .busy ∧ f c.latch = true then { c with raced := true } else c := by
  simp [Chan.raceIf]

/-- Settles O48: the bytes by the laws of a write, the channels by what marking a race does to one. -/
theorem hostWriteMarksRaces : Obligations.HostWriteMarksRaces := by
  intro s addr data rest hwf hin hvalid hdev
  have hstep := (step_cons s _ rest hin).trans (hostMemWrite_next (s := { s with inputs := rest }) hvalid hdev)
  refine ⟨_, hstep, fun i hi => get_write_inside s.mem addr i data hwf hi,
    write_sameOutside s.mem { base := addr, size := data.length } data le_rfl, fun k _ => ?_⟩
  have hchan := raceWrite_chan { s with inputs := rest } { base := addr, size := data.length } k
  exact hchan.trans (raceIf_eq _ _)

end Sys2Proof.Machine

/-! The stream reader is local (R39, R97, R112): each part of it only moves the cursor forward, not past the limit,
and what it answers depends on memory only between where it starts and where it stops. The property is closed under
reading one part after another, so it passes from the field to the stream. -/

namespace Sys2Proof.Machine

/-! ### Local readers -/

/-- The buffer with other bytes behind it. -/
def InBuf.withMem (buf : InBuf) (m : Memory) : InBuf := { buf with mem := m }

/-- `x` is what a reader makes of `buf` from offset `start` on, `y` what it makes of the same buffer with memory `m`: it
stops at or past `start` and not past the limit, and where `m` has the same bytes in between, the two are the same. -/
structure ReadsLocally {α : Type} (buf : InBuf) (m : Memory) (start : Nat) (stop : α → Nat) (x y : α) : Prop where
  forward : start ≤ stop x
  limit : stop x ≤ buf.lim
  same : (∀ a, buf.base + start ≤ a → a < buf.base + stop x → m.get a = buf.mem.get a) → y = x

section Local

variable {α β : Type} {buf : InBuf} {m : Memory}

/-- What reads nothing is local. -/
theorem ReadsLocally.const {start : Nat} {stop : α → Nat} {x : α} (hforward : start ≤ stop x)
    (hlimit : stop x ≤ buf.lim) : ReadsLocally buf m start stop x x := ⟨hforward, hlimit, fun _ => rfl⟩

/-- Two local readers, one after the other. -/
theorem ReadsLocally.seq {start : Nat} {stop : α → Nat} {stop' : β → Nat} {x y : α} (f g : α → β)
    (h : ReadsLocally buf m start stop x y) (hnext : ReadsLocally buf m (stop x) stop' (f x) (g x)) :
    ReadsLocally buf m start stop' (f x) (g y) where
  forward := h.forward.trans hnext.forward
  limit := hnext.limit
  same := fun hm => by
    have hforward := h.forward
    have hforward' := hnext.forward
    rw [h.same fun a h1 h2 => hm a h1 (by omega)]
    exact hnext.same fun a h1 h2 => hm a (by omega) h2

/-- A choice is local where both its ways are and its condition does not look at memory. -/
theorem ReadsLocally.ite {start : Nat} {stop : α → Nat} {x x' y y' : α} {p q : Prop} [Decidable p] [Decidable q]
    (hpq : p ↔ q) (hpos : p → ReadsLocally buf m start stop x y) (hneg : ¬p → ReadsLocally buf m start stop x' y') :
    ReadsLocally buf m start stop (if p then x else x') (if q then y else y') := by
  by_cases hp : p
  · rw [if_pos hp, if_pos (hpq.1 hp)]
    exact hpos hp
  · rw [if_neg hp, if_neg (mt hpq.2 hp)]
    exact hneg hp

end Local

/-! ### The parts of a stream -/

/-- The offset where reading a part ends, however it ends. -/
def Parsed.stop {α : Type} : Parsed α → Nat
  | .ok _ c => c.pos
  | .malformed c => c.pos
  | .busError c => c.pos

/-- Reading on after a part that was read; what ends the reading ends it. -/
def Parsed.next {α β : Type} (x : Parsed α) (k : α → Cursor → Parsed β) : Parsed β :=
  match x with
  | .ok a c => k a c
  | .malformed c => .malformed c
  | .busError c => .busError c

/-! Each part of the reader as one part read after another (R97 to R100). -/

theorem readControl_eq (buf : InBuf) (n : Nat) (c : Cursor) :
    readControl buf n c = (readField buf n c).next fun p c' => if p.2 then .ok p.1 c' else .busError c' := by
  unfold readControl
  cases readField buf n c with
  | ok p c' => obtain ⟨bs, ok⟩ := p; cases ok <;> rfl
  | malformed c' => rfl
  | busError c' => rfl

theorem readData_eq (buf : InBuf) (n : Nat) (c : Cursor) :
    readData buf n c = (readField buf n c).next fun p c' => .ok p.1 { c' with memErr := c'.memErr || !p.2 } := by
  unfold readData
  cases readField buf n c <;> rfl

theorem readHeader_eq (buf : InBuf) (w c : Nat) (cur : Cursor) :
    readHeader buf w c cur = (readData buf 3 cur).next fun h cur' =>
      if headerRefuted buf w c (headerOf h) cur then .malformed cur'
      else if answered buf cur 0 then .ok (headerOf h) cur'
      else .busError cur' := by
  unfold readHeader
  cases readData buf 3 cur <;> rfl

theorem patchApply_succ (buf : InBuf) (w b c n : Nat) (vals : List Nat) (cur : Cursor) :
    patchApply buf w b c (n + 1) vals cur = (readField buf 1 cur).next fun p cur =>
      (readData buf (highBytes w b) { cur with memErr := cur.memErr || !p.2 }).next fun hb cur =>
        if !p.2 then patchApply buf w b c n vals cur
        else if c ≤ fromLE p.1 then .malformed cur
        else patchApply buf w b c n (patchAt w b vals (fromLE p.1) (fromLE hb)) cur := by
  rw [patchApply]
  cases readField buf 1 cur with
  | ok p cur =>
    simp only [Parsed.next]
    cases readData buf (highBytes w b) { cur with memErr := cur.memErr || !p.2 } <;> rfl
  | malformed cur => rfl
  | busError cur => rfl

theorem decodeExceptions_eq (buf : InBuf) (w b c : Nat) (vals : List Nat) (cur : Cursor) :
    decodeExceptions buf w b c vals cur =
      (readControl buf 1 cur).next fun nx cur => patchApply buf w b c (fromLE nx) vals cur := by
  unfold decodeExceptions
  cases readControl buf 1 cur <;> rfl

theorem decodeBlock_eq (v : Variant) (buf : InBuf) (c : Nat) (cur : Cursor) :
    decodeBlock v buf c cur = (readHeader buf v.width c cur).next fun h cur =>
      (readData buf (payloadSize c v.lanes h.b) cur).next fun payload cur =>
        let scratch := unpackScratch payload h.b v.lanes c
        if h.exc then
          (decodeExceptions buf v.width h.b c (scratch.take c) cur).next fun vals cur => .ok (vals, scratch) cur
        else .ok (scratch.take c, scratch) cur := by
  unfold decodeBlock
  cases readHeader buf v.width c cur with
  | ok h cur =>
    simp only [Parsed.next]
    cases readData buf (payloadSize c v.lanes h.b) cur with
    | ok payload cur =>
      simp only
      cases decodeExceptions buf v.width h.b c ((unpackScratch payload h.b v.lanes c).take c) cur <;> rfl
    | malformed cur => rfl
    | busError cur => rfl
  | malformed cur => rfl
  | busError cur => rfl

section Parts

variable {α β : Type} {buf : InBuf} {m : Memory}

/-- Reading on is local where each part is. -/
theorem ReadsLocally.next {start : Nat} {x y : Parsed α} {k k' : α → Cursor → Parsed β}
    (h : ReadsLocally buf m start Parsed.stop x y)
    (hk : ∀ a c, c.pos ≤ buf.lim → ReadsLocally buf m c.pos Parsed.stop (k a c) (k' a c)) :
    ReadsLocally buf m start Parsed.stop (x.next k) (y.next k') := by
  refine h.seq (Parsed.next · k) (Parsed.next · k') ?_
  have hlimit := h.limit
  cases x with
  | ok a c => exact hk a c hlimit
  | malformed c => exact .const le_rfl hlimit
  | busError c => exact .const le_rfl hlimit

theorem readField_local (n : Nat) (c : Cursor) (hc : c.pos ≤ buf.lim) :
    ReadsLocally buf m c.pos Parsed.stop (readField buf n c) (readField (buf.withMem m) n c) := by
  refine .ite Iff.rfl (fun _ => .const hc le_rfl) fun hn => ?_
  refine ⟨Nat.le_add_right _ _, Nat.le_of_not_lt hn, fun hm => ?_⟩
  have hread : m.read (buf.base + c.pos) n = buf.mem.read (buf.base + c.pos) n :=
    read_congr _ _ _ _ fun a h1 h2 => hm a h1 (h2.trans_eq (Nat.add_assoc ..))
  simp only [InBuf.withMem, hread]

theorem readControl_local (n : Nat) (c : Cursor) (hc : c.pos ≤ buf.lim) :
    ReadsLocally buf m c.pos Parsed.stop (readControl buf n c) (readControl (buf.withMem m) n c) := by
  simp only [readControl_eq]
  refine (readField_local n c hc).next fun p c' hc' => ?_
  exact .ite Iff.rfl (fun _ => .const le_rfl hc') fun _ => .const le_rfl hc'

theorem readData_local (n : Nat) (c : Cursor) (hc : c.pos ≤ buf.lim) :
    ReadsLocally buf m c.pos Parsed.stop (readData buf n c) (readData (buf.withMem m) n c) := by
  simp only [readData_eq]
  exact (readField_local n c hc).next fun p c' hc' => .const le_rfl hc'

theorem readHeader_local (w c : Nat) (cur : Cursor) (hc : cur.pos ≤ buf.lim) :
    ReadsLocally buf m cur.pos Parsed.stop (readHeader buf w c cur) (readHeader (buf.withMem m) w c cur) := by
  simp only [readHeader_eq]
  refine (readData_local 3 cur hc).next fun h cur' hc' => .ite Iff.rfl (fun _ => .const le_rfl hc') fun _ => ?_
  exact .ite Iff.rfl (fun _ => .const le_rfl hc') fun _ => .const le_rfl hc'

theorem patchApply_local (w b c n : Nat) (vals : List Nat) (cur : Cursor) (hc : cur.pos ≤ buf.lim) :
    ReadsLocally buf m cur.pos Parsed.stop (patchApply buf w b c n vals cur)
      (patchApply (buf.withMem m) w b c n vals cur) := by
  induction n generalizing vals cur with
  | zero => exact .const le_rfl hc
  | succ n ih =>
    simp only [patchApply_succ]
    refine (readField_local 1 cur hc).next fun p cur1 hc1 => ?_
    refine (readData_local (highBytes w b) { cur1 with memErr := cur1.memErr || !p.2 } hc1).next fun hb cur2 hc2 => ?_
    refine .ite Iff.rfl (fun _ => ih vals cur2 hc2) fun _ => ?_
    exact .ite Iff.rfl (fun _ => .const le_rfl hc2) fun _ => ih _ cur2 hc2

theorem decodeExceptions_local (w b c : Nat) (vals : List Nat) (cur : Cursor) (hc : cur.pos ≤ buf.lim) :
    ReadsLocally buf m cur.pos Parsed.stop (decodeExceptions buf w b c vals cur)
      (decodeExceptions (buf.withMem m) w b c vals cur) := by
  simp only [decodeExceptions_eq]
  exact (readControl_local 1 cur hc).next fun nx cur1 hc1 => patchApply_local w b c _ vals cur1 hc1

theorem decodeBlock_local (v : Variant) (c : Nat) (cur : Cursor) (hc : cur.pos ≤ buf.lim) :
    ReadsLocally buf m cur.pos Parsed.stop (decodeBlock v buf c cur) (decodeBlock v (buf.withMem m) c cur) := by
  simp only [decodeBlock_eq]
  refine (readHeader_local v.width c cur hc).next fun h cur1 hc1 => ?_
  refine (readData_local (payloadSize c v.lanes h.b) cur1 hc1).next fun payload cur2 hc2 => ?_
  refine .ite Iff.rfl (fun _ => ?_) fun _ => .const le_rfl hc2
  exact (decodeExceptions_local v.width h.b c _ cur2 hc2).next fun vals cur3 hc3 => .const le_rfl hc3

end Parts

/-! ### The stream -/

/-- The offset where a decode ends, however it ends. -/
def StreamOut.stop (o : StreamOut) : Nat := o.prog.offset

/-- Decoding on after a part of the stream that was read, from progress `p`; what ends the reading ends the decode. -/
def Parsed.decode {α : Type} (x : Parsed α) (p : Progress) (k : α → Cursor → StreamOut) : StreamOut :=
  match x with
  | .ok a c => k a c
  | .malformed c => .malformed { p with offset := c.pos } c.memErr
  | .busError c => .busError { p with offset := c.pos }

/-- A decode with elements before its own. -/
def StreamOut.after (xs : List Nat) : StreamOut → StreamOut
  | .done ys p e => .done (xs ++ ys) p e
  | .malformed p e => .malformed p e
  | .busError p => .busError p

@[simp] theorem StreamOut.after_stop (xs : List Nat) (o : StreamOut) : (o.after xs).stop = o.stop := by cases o <;> rfl

/-- Decoding on after a block; what ended the decode ends it. -/
def StreamOut.next (x : StreamOut) (k : Progress → Bool → StreamOut) : StreamOut :=
  match x with
  | .done xs p e => (k p e).after xs
  | .malformed p e => .malformed p e
  | .busError p => .busError p

section Streams

variable {α : Type} {buf : InBuf} {m : Memory}

/-- Decoding on after a part is local where both are. -/
theorem ReadsLocally.decode {start : Nat} {p : Progress} {x y : Parsed α} {k k' : α → Cursor → StreamOut}
    (h : ReadsLocally buf m start Parsed.stop x y)
    (hk : ∀ a c, c.pos ≤ buf.lim → ReadsLocally buf m c.pos StreamOut.stop (k a c) (k' a c)) :
    ReadsLocally buf m start StreamOut.stop (x.decode p k) (y.decode p k') := by
  refine h.seq (Parsed.decode · p k) (Parsed.decode · p k') ?_
  have hlimit := h.limit
  cases x with
  | ok a c => exact hk a c hlimit
  | malformed c => exact .const le_rfl hlimit
  | busError c => exact .const le_rfl hlimit

/-- Elements put before a decode leave it local. -/
theorem ReadsLocally.after {start : Nat} {x y : StreamOut} (h : ReadsLocally buf m start StreamOut.stop x y)
    (xs : List Nat) : ReadsLocally buf m start StreamOut.stop (x.after xs) (y.after xs) :=
  h.seq (StreamOut.after xs) (StreamOut.after xs) (.const (x.after_stop xs).ge ((x.after_stop xs).trans_le h.limit))

/-- Decoding on after a block is local where both are. -/
theorem ReadsLocally.nextBlock {start : Nat} {x y : StreamOut} {k k' : Progress → Bool → StreamOut}
    (h : ReadsLocally buf m start StreamOut.stop x y)
    (hk : ∀ q e, q.offset ≤ buf.lim → ReadsLocally buf m q.offset StreamOut.stop (k q e) (k' q e)) :
    ReadsLocally buf m start StreamOut.stop (x.next k) (y.next k') := by
  refine h.seq (StreamOut.next · k) (StreamOut.next · k') ?_
  have hlimit := h.limit
  cases x with
  | done xs q e => exact (hk q e hlimit).after xs
  | malformed q e => exact .const le_rfl hlimit
  | busError q => exact .const le_rfl hlimit

theorem decodeStep_eq (v : Variant) (buf : InBuf) (n : Nat) (p : Progress) (memErr : Bool) :
    decodeStep v buf n p memErr =
      (decodeBlock v buf (blockLen n v.bs p.block) { pos := p.offset, memErr := memErr }).decode p fun r c =>
        let xs := undeltaBlock v p.block p.base r.1
        .done xs
          { block := p.block + 1, offset := c.pos, elem := p.elem + xs.length, base := xs.getLastD p.base,
            scratch := r.2 }
          c.memErr := by
  unfold decodeStep
  cases decodeBlock v buf (blockLen n v.bs p.block) { pos := p.offset, memErr := memErr } <;> rfl

theorem decodeBlocks_succ (v : Variant) (buf : InBuf) (n k : Nat) (p : Progress) (memErr : Bool) :
    decodeBlocks v buf n (k + 1) p memErr = (decodeStep v buf n p memErr).next (decodeBlocks v buf n k) := by
  rw [decodeBlocks]
  cases decodeStep v buf n p memErr with
  | done xs q e =>
    simp only [StreamOut.next]
    cases decodeBlocks v buf n k q e <;> rfl
  | malformed q e => rfl
  | busError q => rfl

theorem decodeStream_eq (v : Variant) (buf : InBuf) (n : Nat) :
    decodeStream v buf n =
      if n = 0 then .done [] .start false
      else (readData buf v.size { pos := 0, memErr := false }).decode .start fun bs c =>
        decodeBlocks v buf n (blockCount n v.bs) (.afterBase c.pos (fromLE bs)) c.memErr := by
  unfold decodeStream
  cases readData buf v.size { pos := 0, memErr := false } <;> rfl

theorem decodeStep_local (v : Variant) (n : Nat) (p : Progress) (memErr : Bool) (hp : p.offset ≤ buf.lim) :
    ReadsLocally buf m p.offset StreamOut.stop (decodeStep v buf n p memErr)
      (decodeStep v (buf.withMem m) n p memErr) := by
  simp only [decodeStep_eq]
  exact (decodeBlock_local v _ { pos := p.offset, memErr := memErr } hp).decode fun r c hc => .const le_rfl hc

theorem decodeBlocks_local (v : Variant) (n k : Nat) (p : Progress) (memErr : Bool) (hp : p.offset ≤ buf.lim) :
    ReadsLocally buf m p.offset StreamOut.stop (decodeBlocks v buf n k p memErr)
      (decodeBlocks v (buf.withMem m) n k p memErr) := by
  induction k generalizing p memErr with
  | zero => exact .const le_rfl hp
  | succ k ih =>
    simp only [decodeBlocks_succ]
    exact (decodeStep_local v n p memErr hp).nextBlock ih

/-- The reader as a whole is local. -/
theorem decodeStream_local (v : Variant) (n : Nat) :
    ReadsLocally buf m 0 StreamOut.stop (decodeStream v buf n) (decodeStream v (buf.withMem m) n) := by
  simp only [decodeStream_eq]
  refine .ite Iff.rfl (fun _ => .const le_rfl (Nat.zero_le _)) fun _ => ?_
  exact (readData_local v.size { pos := 0, memErr := false } (Nat.zero_le _)).decode fun bs c hc =>
    decodeBlocks_local v n _ (.afterBase c.pos (fromLE bs)) c.memErr hc

end Streams

/-- Settles O60. -/
theorem readerNeverPassesItsLimit : Obligations.ReaderNeverPassesItsLimit := by
  intro v buf n m
  have hlocal : ReadsLocally buf m 0 StreamOut.stop _ _ := decodeStream_local v n
  exact ⟨hlocal.limit, hlocal.same⟩

end Sys2Proof.Machine

/-! The command words (30_encoding.md): the decoder as the table of R52, its word for every kind of command, and that the
two are inverse; then what becomes of an illegal word (R52, R110) and of `WAIT` (R57). -/

namespace Sys2Proof

open Machine

/-! ### The decoder as a table (R52, R53) -/

/-- What R52 and R53 make of a word, by the value of `OP` and of the reserved bits: a row for each case. -/
inductive DecodeRow (w : Word) : Decoded → Prop where
  | nop (op : w.toNat % 16 = 0) : DecodeRow w (.ok (.nop (w.toNat / 16)))
  | reservedOp (op : 4 ≤ w.toNat % 16) : DecodeRow w (.rejected .reservedOp)
  | reservedBits (low : 1 ≤ w.toNat % 16) (high : w.toNat % 16 ≤ 3) (bits : w.toNat / 512 ≠ 0) :
      DecodeRow w (.rejected .reservedBits)
  | enc (op : w.toNat % 16 = 1) (bits : w.toNat / 512 = 0) : DecodeRow w (.ok (.enc (variantField w)))
  | dec (op : w.toNat % 16 = 2) (bits : w.toNat / 512 = 0) : DecodeRow w (.ok (.dec (variantField w)))
  | bound (op : w.toNat % 16 = 3) (bits : w.toNat / 512 = 0) :
      DecodeRow w (.ok (.bound (w.getLsbD 4) (w.getLsbD 5) (w.toNat / 64)))

/-- The ignored bits of a NOP as a number (R53). -/
theorem nopField_toNat (w : Word) : (w.extractLsb' 4 28).toNat = w.toNat / 16 := by
  rw [BitVec.extractLsb'_toNat, Nat.shiftRight_eq_div_pow]
  omega

/-- The don't-care bits of a BOUND as a number, where no higher bit is set (R52). -/
theorem boundField_toNat (w : Word) (h : w.toNat / 512 = 0) : (w.extractLsb' 6 3).toNat = w.toNat / 64 := by
  rw [BitVec.extractLsb'_toNat, Nat.shiftRight_eq_div_pow]
  omega

/-- The decoder's tests as conditions on the value of the word. -/
theorem decodeCmd_eq_ite (w : Word) :
    decodeCmd w =
      if w.toNat % 16 = 0 then .ok (.nop (w.toNat / 16))
      else if 4 ≤ w.toNat % 16 then .rejected .reservedOp
      else if w.toNat / 512 ≠ 0 then .rejected .reservedBits
      else if w.toNat % 16 = 1 then .ok (.enc (variantField w))
      else if w.toNat % 16 = 2 then .ok (.dec (variantField w))
      else .ok (.bound (w.getLsbD 4) (w.getLsbD 5) (w.extractLsb' 6 3).toNat) := by
  simp only [decodeCmd, opField_eq_zero_iff, opField_toNat, ne_eq, reservedField_eq_zero_iff, nopField_toNat,
    show opField w = 1 ↔ w.toNat % 16 = 1 from opField_eq_iff w 1,
    show opField w = 2 ↔ w.toNat % 16 = 2 from opField_eq_iff w 2]

/-- The decoder answers what the row of a word says. -/
theorem DecodeRow.decodeCmd_eq {w : Word} {d : Decoded} (h : DecodeRow w d) : decodeCmd w = d := by
  rw [decodeCmd_eq_ite]
  cases h with
  | nop op => exact if_pos op
  | reservedOp op => rw [if_neg (by omega), if_pos op]
  | reservedBits low high bits => rw [if_neg (by omega), if_neg (by omega), if_pos bits]
  | enc op bits => rw [if_neg (by omega), if_neg (by omega), if_neg (not_not.2 bits), if_pos op]
  | dec op bits => rw [if_neg (by omega), if_neg (by omega), if_neg (not_not.2 bits), if_neg (by omega), if_pos op]
  | bound op bits =>
    rw [if_neg (by omega), if_neg (by omega), if_neg (not_not.2 bits), if_neg (by omega), if_neg (by omega),
      boundField_toNat w bits]

/-- Every word has a row. -/
theorem exists_decodeRow (w : Word) : ∃ d, DecodeRow w d := by
  by_cases hnop : w.toNat % 16 = 0
  · exact ⟨_, .nop hnop⟩
  by_cases hop : 4 ≤ w.toNat % 16
  · exact ⟨_, .reservedOp hop⟩
  by_cases hbits : w.toNat / 512 = 0
  · obtain henc | hdec | hbound : w.toNat % 16 = 1 ∨ w.toNat % 16 = 2 ∨ w.toNat % 16 = 3 := by omega
    · exact ⟨_, .enc henc hbits⟩
    · exact ⟨_, .dec hdec hbits⟩
    · exact ⟨_, .bound hbound hbits⟩
  · exact ⟨_, .reservedBits (by omega) (by omega) hbits⟩

/-- What the decoder answers is a row of the table. -/
theorem decodeRow_decodeCmd (w : Word) : DecodeRow w (decodeCmd w) := by
  obtain ⟨d, h⟩ := exists_decodeRow w
  rwa [h.decodeCmd_eq]

/-- Settles O3: the rows of a kind of answer cover its words, and the conditions of different kinds exclude each other. -/
theorem decodeRejectsExactlyIllegalWords : Obligations.DecodeRejectsExactlyIllegalWords := by
  intro w
  have hrow := decodeRow_decodeCmd w
  generalize decodeCmd w = d at hrow
  cases hrow with
  | nop | enc | dec | bound =>
    simp only [reduceCtorEq, Decoded.ok.injEq, exists_eq', false_iff, true_iff]
    omega
  | reservedOp | reservedBits =>
    simp only [reduceCtorEq, Decoded.rejected.injEq, exists_false, false_iff, true_iff]
    omega

/-! ### The words of the commands as numbers (R50, R56) -/

/-- Each part of a variant is one bit (R50). -/
theorem variant_bits_lt (v : Variant) :
    v.wide.toNat < 2 ∧ v.w64.toNat < 2 ∧ v.signed.toNat < 2 ∧ dirBit v.dir < 2 ∧ v.d1.toNat < 2 :=
  ⟨v.wide.toNat_lt, v.w64.toNat_lt, v.signed.toNat_lt, by cases v.dir <;> decide, v.d1.toNat_lt⟩

/-- The word of a variant as the sum of its fields. -/
theorem variantWord_toNat (op : Nat) (v : Variant) (hop : op < 16) :
    (variantWord op v).toNat = op + 16 * v.wide.toNat + 32 * v.w64.toNat + 64 * v.signed.toNat + 128 * dirBit v.dir +
      256 * v.d1.toNat := by
  obtain ⟨hwide, hw64, hsigned, hdir, hd1⟩ := variant_bits_lt v
  rw [variantWord, BitVec.toNat_ofNat]
  omega

/-- The word of a BOUND. -/
theorem boundWord_toNat (wide w64 : Bool) (attrs : Nat) (h : attrs < 8) :
    (encodeKind (.bound wide w64 attrs)).toNat = 3 + 16 * wide.toNat + 32 * w64.toNat + 64 * attrs := by
  have hwide := wide.toNat_lt
  have hw64 := w64.toNat_lt
  rw [encodeKind, BitVec.toNat_ofNat]
  omega

/-- The word of a NOP. -/
theorem nopWord_toNat (n : Nat) (h : n < 2 ^ 28) : (encodeKind (.nop n)).toNat = 16 * n := by
  rw [encodeKind, BitVec.toNat_ofNat]
  omega

@[simp] theorem encode_enc (v : Variant) : encode (.enc v) = variantWord 1 v := by rw [encode, kind_enc, encodeKind]

@[simp] theorem encode_dec (v : Variant) : encode (.dec v) = variantWord 2 v := by rw [encode, kind_dec, encodeKind]

theorem encode_bound (wide w64 : Bool) (attrs : Nat) :
    encode (.bound wide w64 attrs) = encodeKind (.bound wide w64 attrs) := by rw [encode, kind_bound]

@[simp] theorem wf_bound (wide w64 : Bool) (attrs : Nat) : (Instr.bound wide w64 attrs).wf = boundFits attrs := by
  cases wide <;> cases w64 <;> rfl

theorem boundFits_iff (attrs : Nat) : boundFits attrs = true ↔ attrs < 8 := decide_eq_true_iff

theorem nopFits_iff (n : Nat) : nopFits n = true ↔ n < 2 ^ 28 := decide_eq_true_iff

/-! ### Encoding what was decoded (R50, R52) -/

/-- `DIR` of a word as its bit. -/
theorem dirBit_variantField (w : Word) : dirBit (variantField w).dir = w.toNat / 128 % 2 := by
  refine Eq.trans ?_ (getLsbD_toNat w 7)
  rw [variantField]
  cases w.getLsbD 7 <;> rfl

/-- The word of the variant that a word's fields name is the word, where the reserved bits are clear. -/
theorem variantWord_variantField (w : Word) (op : Nat) (hop : w.toNat % 16 = op) (hbits : w.toNat / 512 = 0) :
    variantWord op (variantField w) = w := by
  have hwide := getLsbD_toNat w 4
  have hw64 := getLsbD_toNat w 5
  have hsigned := getLsbD_toNat w 6
  have hd1 := getLsbD_toNat w 8
  apply BitVec.eq_of_toNat_eq
  rw [variantWord_toNat op _ (by omega), dirBit_variantField]
  simp only [variantField]
  omega

/-- The word of the BOUND that a word's fields name is the word, where the reserved bits are clear. -/
theorem boundWord_fields (w : Word) (hop : w.toNat % 16 = 3) (hbits : w.toNat / 512 = 0) :
    encodeKind (.bound (w.getLsbD 4) (w.getLsbD 5) (w.toNat / 64)) = w := by
  have hwide := getLsbD_toNat w 4
  have hw64 := getLsbD_toNat w 5
  apply BitVec.eq_of_toNat_eq
  rw [boundWord_toNat _ _ _ (by omega)]
  omega

/-- Settles O2: by the row of the word. -/
theorem encodeOfDecode : Obligations.EncodeOfDecode := by
  intro w i hdecode
  have hrow := decodeRow_decodeCmd w
  rw [hdecode] at hrow
  cases hrow with
  | nop op =>
    have hfits : w.toNat / 16 < 2 ^ 28 := by omega
    refine ⟨(nopFits_iff _).2 hfits, BitVec.eq_of_toNat_eq ((nopWord_toNat _ hfits).trans ?_)⟩
    omega
  | enc op bits => exact ⟨wf_enc _, (encode_enc _).trans (variantWord_variantField w 1 op bits)⟩
  | dec op bits => exact ⟨wf_dec _, (encode_dec _).trans (variantWord_variantField w 2 op bits)⟩
  | bound op bits =>
    have hfits : w.toNat / 64 < 8 := by omega
    exact ⟨(wf_bound ..).trans ((boundFits_iff _).2 hfits), (encode_bound ..).trans (boundWord_fields w op bits)⟩

/-! ### Decoding what was encoded (R56) -/

/-- The command of a kind: the inverse of `Instr.kind`. -/
def Kind.command : Kind → Instr
  | .nop n => .nop n
  | .enc v => .enc v
  | .dec v => .dec v
  | .bound wide w64 attrs => .bound wide w64 attrs

@[simp] theorem command_kind (i : Instr) : i.kind.command = i := by cases i <;> rfl

/-- The fields of the word of a variant name the variant. -/
theorem variantField_variantWord (op : Nat) (v : Variant) (hop : op < 16) : variantField (variantWord op v) = v := by
  have hword := variantWord_toNat op v hop
  obtain ⟨hwide, hw64, hsigned, hdir, hd1⟩ := variant_bits_lt v
  have hdirBit : (variantWord op v).getLsbD 7 = decide (v.dir = .dn) := by
    apply getLsbD_eq_of_toNat
    rw [show (decide (v.dir = .dn)).toNat = dirBit v.dir by cases v.dir <;> rfl]
    omega
  rw [variantField, getLsbD_eq_of_toNat _ 4 v.wide (by omega), getLsbD_eq_of_toNat _ 5 v.w64 (by omega),
    getLsbD_eq_of_toNat _ 6 v.signed (by omega), getLsbD_eq_of_toNat _ 8 v.d1 (by omega), hdirBit]
  obtain ⟨wide, w64, signed, dir, d1⟩ := v
  cases dir <;> rfl

/-- The word of a variant has its `OP` in place, and no reserved bit. -/
theorem variantWord_fields (op : Nat) (v : Variant) (hop : op < 16) :
    (variantWord op v).toNat % 16 = op ∧ (variantWord op v).toNat / 512 = 0 := by
  obtain ⟨hwide, hw64, hsigned, hdir, hd1⟩ := variant_bits_lt v
  rw [variantWord_toNat op v hop]
  omega

/-- A well-formed command has the row of its word. -/
theorem decodeRow_encode_command (k : Kind) (h : k.command.wf = true) : DecodeRow (encode k.command) (.ok k.command) := by
  cases k with
  | nop n =>
    have hword := nopWord_toNat n ((nopFits_iff n).1 h)
    have hrow := DecodeRow.nop (w := encodeKind (.nop n)) (by omega)
    rwa [show (encodeKind (.nop n)).toNat / 16 = n by omega] at hrow
  | enc v =>
    obtain ⟨hop, hbits⟩ := variantWord_fields 1 v (by decide)
    have hrow := DecodeRow.enc hop hbits
    rwa [variantField_variantWord 1 v (by decide), ← encode_enc] at hrow
  | dec v =>
    obtain ⟨hop, hbits⟩ := variantWord_fields 2 v (by decide)
    have hrow := DecodeRow.dec hop hbits
    rwa [variantField_variantWord 2 v (by decide), ← encode_dec] at hrow
  | bound wide w64 attrs =>
    have hfits := (boundFits_iff attrs).1 ((wf_bound wide w64 attrs).symm.trans h)
    have hword := boundWord_toNat wide w64 attrs hfits
    have hwide := wide.toNat_lt
    have hw64 := w64.toNat_lt
    have hrow := DecodeRow.bound (w := encodeKind (.bound wide w64 attrs)) (by omega) (by omega)
    rwa [getLsbD_eq_of_toNat _ 4 wide (by omega), getLsbD_eq_of_toNat _ 5 w64 (by omega),
      show (encodeKind (.bound wide w64 attrs)).toNat / 64 = attrs by omega, ← encode_bound] at hrow

/-- The bytes of a word decode as the word (R49). -/
theorem decodeBytes_leBytes (w : Word) : decodeBytes (leBytes 4 w.toNat) = decodeCmd w := by
  have hlength := leBytes_length 4 w.toNat
  rw [decodeBytes, if_neg (by omega), List.take_of_length_le hlength.le, wordOfBytes_leBytes]

/-- Settles O1: every command is that of its kind, whose word has the command's row. -/
theorem decodeOfEncode : Obligations.DecodeOfEncode := by
  intro i hwf
  have hrow := decodeRow_encode_command i.kind (by rwa [command_kind])
  rw [command_kind] at hrow
  exact ⟨hrow.decodeCmd_eq, (decodeBytes_leBytes _).trans hrow.decodeCmd_eq⟩

/-- Settles O4: each word is that of its command. -/
theorem sampleWordsDecode : Obligations.SampleWordsDecode :=
  ⟨(decodeOfEncode .enc128U32UpD1 rfl).1, (decodeOfEncode .dec256S64DnD0 rfl).1, (decodeOfEncode (.bound256W64 0) rfl).1,
    (decodeOfEncode (.bound128W32 7) rfl).1, (decodeOfEncode (.nop 1) rfl).1⟩

/-! ### The fields ORed in place (R56) -/

/-- A field above the bits of a number is ORed to it by adding it. -/
theorem or_shiftLeft_of_lt {x k : Nat} (h : x < 2 ^ k) (b : Nat) : x ||| b <<< k = x + b * 2 ^ k := by
  rw [Nat.or_comm, ← Nat.shiftLeft_add_eq_or_of_lt h, Nat.shiftLeft_eq, Nat.add_comm]

/-- The fields of a word ORed in place are its fields added up (R56). -/
theorem or_fields {op wide w64 signed dir d1 : Nat} (hop : op < 16) (hwide : wide < 2) (hw64 : w64 < 2)
    (hsigned : signed < 2) (hdir : dir < 2) :
    op ||| (wide <<< 4 ||| w64 <<< 5) ||| (signed <<< 6 ||| dir <<< 7 ||| d1 <<< 8) =
      op + 16 * wide + 32 * w64 + 64 * signed + 128 * dir + 256 * d1 := by
  simp only [← Nat.or_assoc]
  rw [or_shiftLeft_of_lt (k := 4) (by omega), or_shiftLeft_of_lt (k := 5) (by omega), or_shiftLeft_of_lt (k := 6) (by omega),
    or_shiftLeft_of_lt (k := 7) (by omega), or_shiftLeft_of_lt (k := 8) (by omega)]
  omega

/-- Settles O5: the sums of `encode` as the ORs of R56. -/
theorem encodingIsTheFieldsInPlace : Obligations.EncodingIsTheFieldsInPlace := by
  intro v
  obtain ⟨hwide, hw64, hsigned, hdir, hd1⟩ := variant_bits_lt v
  have hdirBit : (if v.dir = .dn then 1 else 0) = dirBit v.dir := by cases v.dir <;> rfl
  have hor (op : Nat) (hop : op < 16) := or_fields (d1 := v.d1.toNat) hop hwide hw64 hsigned hdir
  have hattrs := or_fields (op := 0) (wide := 0) (w64 := 0) (d1 := v.d1.toNat) (by decide) (by decide) (by decide) hsigned hdir
  simp only [Nat.zero_shiftLeft, Nat.zero_or, Nat.or_zero] at hattrs
  simp only [hdirBit]
  refine ⟨?_, ?_, ?_⟩
  · rw [encode_enc, variantWord_toNat 1 v (by decide), hor 1 (by decide)]
  · rw [encode_dec, variantWord_toNat 2 v (by decide), hor 2 (by decide)]
  · rw [encode_bound, boundWord_toNat _ _ _ (by omega), hor 3 (by decide)]
    omega

namespace Machine

/-! ### Illegal words and `WAIT` (R52, R57, R110) -/

/-- An illegal word is rejected (R52 steps 1 and 2). -/
theorem exists_rejected_of_illegal {w : Word} (h : 4 ≤ w.toNat % 16 ∨ (1 ≤ w.toNat % 16 ∧ w.toNat / 512 ≠ 0)) :
    ∃ e, decodeCmd w = .rejected e := by
  by_cases hop : 4 ≤ w.toNat % 16
  · exact ⟨_, (DecodeRow.reservedOp hop).decodeCmd_eq⟩
  · obtain ⟨hlow, hbits⟩ := h.resolve_left hop
    exact ⟨_, (DecodeRow.reservedBits hlow (by omega) hbits).decodeCmd_eq⟩

/-- A busy engine completes a rejected word with `ERR_ILLEGAL` (R52, R53). -/
theorem runEngine_of_rejected {ch : Nat} {s : State} {e : DecodeError} (hbusy : (s.chan ch).eng = .busy)
    (hdecode : decodeCmd (s.chan ch).latch.cmd = .rejected e) :
    runEngine ch s = .next ((s.select ch).failClean .illegal) := by
  rw [runEngine, if_pos ((busy_iff _).2 hbusy), hdecode]

/-- Settles O7: the engine's run is the clean failure of R114 with the code of an illegal word. -/
theorem illegalWordCompletesWithErrIllegal : Obligations.IllegalWordCompletesWithErrIllegal := by
  intro s ch rest hin hbusy hillegal
  obtain ⟨e, hdecode⟩ := exists_rejected_of_illegal hillegal
  have hrun := runEngine_of_rejected (s := { s with inputs := rest }) hbusy hdecode
  exact ⟨_, (step_cons s _ rest hin).trans hrun, failClean_spec _ _ (lt_of_busy s ch ((busy_iff _).2 hbusy))⟩

/-- Settles O46: the read gives the bytes of `STATUS`, and `BUSY` decides whether the loop comes round again. -/
theorem waitReadsStatus : Obligations.WaitReadsStatus := by
  intro s ch rest _ hch hin
  have hread := readReg_slotOffset { s with inputs := rest } ch .status hch
  rw [step_cons s _ rest hin, perform, hostWait, hread]
  exact ⟨fun hidle => congrArg _ (if_neg (not_busy_of_idle hidle)),
    fun hbusy => congrArg _ (if_pos ((busy_iff _).2 hbusy))⟩

end Machine

end Sys2Proof

/-! The delta layer (40_delta.md): the deltas of a sequence and their inverse, block by block and as a whole (R59 to
R65), and that the signedness field does nothing (R66). -/

namespace Sys2Proof.Machine

/-! ### Residues (R9) -/

theorem residue_cast (w : Nat) (a : Int) : (residue w a : Int) = a % 2 ^ w :=
  Int.toNat_of_nonneg (Int.emod_nonneg a (by positivity))

/-- A residue is known by any number in range that is congruent. -/
theorem residue_eq_of_modEq {w n : Nat} {a : Int} (h : a ≡ n [ZMOD 2 ^ w]) (hn : n < 2 ^ w) : residue w a = n := by
  have hmod : (n : Int) % 2 ^ w = n := Int.emod_eq_of_lt (Int.natCast_nonneg n) (by exact_mod_cast hn)
  exact_mod_cast (residue_cast w a).trans (Eq.trans h hmod)

/-- A residue stands for its number in a congruence. -/
theorem residue_modEq (w : Nat) (a : Int) : (residue w a : Int) ≡ a [ZMOD 2 ^ w] := by
  rw [residue_cast]
  exact Int.mod_modEq a _

/-! ### Deltas and their inverse (R59, R63, R64) -/

/-- The inverse delta of a delta is the element, whatever the element before it (R64). -/
theorem undeltaOf_deltaOf (v : Variant) (prev : Nat) {cur : Nat} (h : cur < 2 ^ v.width) :
    undeltaOf v prev (deltaOf v prev cur) = cur := by
  unfold undeltaOf deltaOf
  cases v.dir with
  | up =>
    refine residue_eq_of_modEq ?_ h
    calc (prev : Int) + residue v.width (cur - prev - v.step) + v.step
        ≡ prev + (cur - prev - v.step) + v.step [ZMOD 2 ^ v.width] := ((residue_modEq _ _).add_left _).add_right _
      _ = cur := by ring
  | dn =>
    refine residue_eq_of_modEq ?_ h
    calc (prev : Int) - residue v.width (prev - cur - v.step) - v.step
        ≡ prev - (prev - cur - v.step) - v.step [ZMOD 2 ^ v.width] := ((residue_modEq _ _).sub_left _).sub_right _
      _ = cur := by ring

theorem undeltasFrom_deltasFrom (v : Variant) (prev : Nat) (xs : List Nat) (h : Fits v xs) :
    undeltasFrom v prev (deltasFrom v prev xs) = xs := by
  induction xs generalizing prev with
  | nil => rfl
  | cons x xs ih =>
    obtain ⟨hx, hxs⟩ := List.forall_mem_cons.1 h
    rw [deltasFrom, undeltasFrom, undeltaOf_deltaOf v prev hx, ih x hxs]

/-- In block 0 the placeholder of the baseline gives the baseline (R59, R63). -/
theorem undeltaBlock_deltas (v : Variant) (xs : List Nat) (h : Fits v xs) :
    undeltaBlock v 0 (xs.headD 0) (deltas v xs) = xs := by
  cases xs with
  | nil => rfl
  | cons x xs => exact congrArg (x :: ·) (undeltasFrom_deltasFrom v x xs (List.forall_mem_cons.1 h).2)

/-! ### A sequence in two parts, the baseline carried from one to the other (R62) -/

theorem deltasFrom_append (v : Variant) (prev : Nat) (xs ys : List Nat) :
    deltasFrom v prev (xs ++ ys) = deltasFrom v prev xs ++ deltasFrom v (xs.getLastD prev) ys := by
  induction xs generalizing prev with
  | nil => rfl
  | cons x xs ih => rw [List.cons_append, deltasFrom, deltasFrom, ih, List.getLastD_cons, List.cons_append]

theorem deltas_append (v : Variant) {xs : List Nat} (ys : List Nat) (h : xs ≠ []) :
    deltas v (xs ++ ys) = deltas v xs ++ deltasFrom v (xs.getLastD 0) ys := by
  obtain ⟨x, xs, rfl⟩ := List.exists_cons_of_ne_nil h
  rw [List.cons_append, deltas, deltas, deltasFrom_append, List.getLastD_cons, List.cons_append]

theorem undeltasFrom_append (v : Variant) (prev : Nat) (ds es : List Nat) :
    undeltasFrom v prev (ds ++ es) =
      undeltasFrom v prev ds ++ undeltasFrom v ((undeltasFrom v prev ds).getLastD prev) es := by
  induction ds generalizing prev with
  | nil => rfl
  | cons d ds ih => rw [List.cons_append, undeltasFrom, undeltasFrom, ih, List.getLastD_cons, List.cons_append]

theorem undeltaBlock_of_ne_zero (v : Variant) {k : Nat} (base : Nat) (vals : List Nat) (h : k ≠ 0) :
    undeltaBlock v k base vals = undeltasFrom v base vals := if_neg h

theorem undeltaBlock_zero_cons (v : Variant) (base d : Nat) (ds : List Nat) :
    undeltaBlock v 0 base (d :: ds) = base :: undeltasFrom v base ds := rfl

/-- Only block 0 needs a slot, the one that the baseline takes. -/
theorem undeltaBlock_append (v : Variant) (k base : Nat) {ds : List Nat} (es : List Nat) (h : k = 0 → ds ≠ []) :
    undeltaBlock v k base (ds ++ es) =
      undeltaBlock v k base ds ++ undeltasFrom v ((undeltaBlock v k base ds).getLastD base) es := by
  by_cases hk : k = 0
  · subst hk
    obtain ⟨d, ds, rfl⟩ := List.exists_cons_of_ne_nil (h rfl)
    rw [List.cons_append, undeltaBlock_zero_cons, undeltaBlock_zero_cons, undeltasFrom_append, List.getLastD_cons,
      List.cons_append]
  · simp only [undeltaBlock_of_ne_zero v _ _ hk, undeltasFrom_append]

/-- Blocks undone one by one are undone as one (R63). -/
theorem undeltaBlocks_eq_flatten (v : Variant) (k base : Nat) (blocks : List (List Nat))
    (h : k = 0 → blocks.headD [] ≠ []) :
    undeltaBlocks v k base blocks = undeltaBlock v k base blocks.flatten := by
  induction blocks generalizing k base with
  | nil =>
    rw [undeltaBlocks, List.flatten_nil, undeltaBlock_of_ne_zero v _ _ fun hk => h hk rfl, undeltasFrom]
  | cons ds blocks ih =>
    rw [undeltaBlocks, List.flatten_cons, undeltaBlock_append v k base (ds := ds) _ h,
      ih _ _ fun hk => absurd hk k.succ_ne_zero, undeltaBlock_of_ne_zero v _ _ k.succ_ne_zero]

/-! ### The partition (R58) -/

/-- The pieces of a cut make the list again, where there are enough of them. -/
theorem flatten_cut (bs k : Nat) (xs : List Nat) (h : xs.length ≤ k * bs) : (cut bs k xs).flatten = xs := by
  induction k generalizing xs with
  | zero =>
    rw [Nat.zero_mul] at h
    exact (List.eq_nil_of_length_eq_zero (Nat.le_zero.1 h)).symm
  | succ k ih =>
    rw [Nat.succ_mul] at h
    rw [cut, List.flatten_cons, ih (xs.drop bs) (by rw [List.length_drop]; omega), List.take_append_drop]

theorem length_le_blocks (v : Variant) (n : Nat) : n ≤ blockCount n v.bs * v.bs := (blocks_cover n v.bs (bs_pos v)).1

/-- A block is there exactly where it starts inside the sequence. -/
theorem lt_blockCount_iff (v : Variant) (n k : Nat) : k < blockCount n v.bs ↔ k * v.bs < n := by
  have hbs := bs_pos v
  rw [blockCount, ceilDiv, Nat.lt_iff_add_one_le, Nat.le_div_iff_mul_le hbs, Nat.succ_mul]
  omega

theorem blockCount_eq_zero_iff (v : Variant) (n : Nat) : blockCount n v.bs = 0 ↔ n = 0 := by
  have hiff := lt_blockCount_iff v n 0
  omega

theorem cut_headD_ne_nil {bs k : Nat} {xs : List Nat} (hbs : 0 < bs) (hk : k ≠ 0) (hxs : xs ≠ []) :
    (cut bs k xs).headD [] ≠ [] := by
  obtain ⟨k, rfl⟩ := Nat.exists_eq_succ_of_ne_zero hk
  simpa [cut, List.take_eq_nil_iff, hxs] using hbs.ne'

/-- Settles O49: the blocks are undone as one, and the pieces of the cut make the deltas again. -/
theorem deltaLayerIsLossless : Obligations.DeltaLayerIsLossless := by
  intro v xs hfits
  rcases eq_or_ne xs [] with rfl | hxs
  · rw [(blockCount_eq_zero_iff v _).2 List.length_nil, cut, undeltaBlocks]
  have hlen := deltas_length v xs
  have hds : deltas v xs ≠ [] := by
    rw [← List.length_pos_iff, hlen]
    exact List.length_pos_iff.2 hxs
  have hcount : blockCount xs.length v.bs ≠ 0 := by simpa [blockCount_eq_zero_iff] using hxs
  rw [undeltaBlocks_eq_flatten v 0 _ _ fun _ => cut_headD_ne_nil (bs_pos v) hcount hds,
    flatten_cut _ _ _ (hlen.trans_le (length_le_blocks v _)), undeltaBlock_deltas v xs hfits]

/-! ### Monotone input (R65) -/

theorem two_pow_width (v : Variant) : (2 : Int) ^ v.width = 2 * 2 ^ (v.width - 1) := by
  unfold Variant.width elemWidth
  split <;> rfl

/-- Both readings of a pattern are the pattern modulo `2^W` (R10). -/
theorem reading_modEq (v : Variant) (p : Nat) : reading v p ≡ p [ZMOD 2 ^ v.width] := by
  unfold reading signedReading
  split
  · split
    · rfl
    · exact Int.modEq_iff_dvd.2 ⟨1, by ring⟩
  · rfl

/-- A `W`-bit reading is less than `2^W` above any other (R10). -/
theorem reading_sub_lt (v : Variant) {p : Nat} (q : Nat) (hp : p < 2 ^ v.width) :
    reading v p - reading v q < 2 ^ v.width := by
  have htwo := two_pow_width v
  zify at hp
  unfold reading signedReading
  zify
  split
  · split_ifs <;> omega
  · omega

/-- Readings in order, and far enough apart, have a difference less the step that does not wrap. -/
theorem residue_reading_sub (v : Variant) {lo hi : Nat} (hhi : hi < 2 ^ v.width)
    (h : reading v lo + v.step ≤ reading v hi) :
    (residue v.width ((hi : Int) - lo - v.step) : Int) = reading v hi - reading v lo - v.step := by
  have hlt := reading_sub_lt v lo hhi
  have hmod : (hi : Int) - lo - v.step ≡ reading v hi - reading v lo - v.step [ZMOD 2 ^ v.width] :=
    (((reading_modEq v hi).sub (reading_modEq v lo)).sub_right _).symm
  rw [residue_cast, hmod]
  exact Int.emod_eq_of_lt (by omega) (by omega)

/-- Settles O50: in either direction the readings differ by the step at least, so the residue is the difference. -/
theorem monotoneDeltasDoNotWrap : Obligations.MonotoneDeltasDoNotWrap := by
  intro v prev cur hprev hcur h
  unfold deltaOf
  cases hdir : v.dir <;> rw [hdir] at h <;> simp only at h ⊢
  case up => rw [residue_reading_sub v hcur h, abs_of_nonneg (by omega)]
  case dn => rw [residue_reading_sub v hprev (by omega), abs_of_nonpos (by omega), neg_sub]

/-! ### Signedness (R66) -/

/-- A variant with its signedness replaced. -/
def withSign (v : Variant) (sgn : Bool) : Variant := { v with signed := sgn }

section Signedness

variable (v : Variant) (sgn : Bool)

/-! The constants of a variant, and what the functional units take from it. -/

@[simp] theorem withSign_bs : (withSign v sgn).bs = v.bs := rfl
@[simp] theorem withSign_size : (withSign v sgn).size = v.size := rfl
@[simp] theorem deltaOf_withSign : deltaOf (withSign v sgn) = deltaOf v := rfl
@[simp] theorem undeltaOf_withSign : undeltaOf (withSign v sgn) = undeltaOf v := rfl
@[simp] theorem encodeBlock_withSign : encodeBlock (withSign v sgn) = encodeBlock v := rfl
@[simp] theorem decodeBlock_withSign : decodeBlock (withSign v sgn) = decodeBlock v := rfl

theorem deltasFrom_withSign (prev : Nat) (xs : List Nat) :
    deltasFrom (withSign v sgn) prev xs = deltasFrom v prev xs := by
  induction xs generalizing prev with
  | nil => rfl
  | cons x xs ih => rw [deltasFrom, deltasFrom, ih, deltaOf_withSign]

theorem deltas_withSign (xs : List Nat) : deltas (withSign v sgn) xs = deltas v xs := by
  cases xs with
  | nil => rfl
  | cons x xs => exact congrArg (0 :: ·) (deltasFrom_withSign v sgn x xs)

theorem undeltasFrom_withSign (prev : Nat) (ds : List Nat) :
    undeltasFrom (withSign v sgn) prev ds = undeltasFrom v prev ds := by
  induction ds generalizing prev with
  | nil => rfl
  | cons d ds ih => rw [undeltasFrom, undeltasFrom, ih, undeltaOf_withSign]

@[simp] theorem undeltaBlock_withSign (k base : Nat) (vals : List Nat) :
    undeltaBlock (withSign v sgn) k base vals = undeltaBlock v k base vals := by
  simp only [undeltaBlock, undeltasFrom_withSign]

@[simp] theorem stream_withSign (xs : List Nat) : stream (withSign v sgn) xs = stream v xs := by
  cases xs with
  | nil => rfl
  | cons x xs =>
    rw [stream, stream, deltas_withSign, encodeBlock_withSign, withSign_bs, withSign_size]

theorem decodeStep_withSign (buf : InBuf) (n : Nat) (p : Progress) (memErr : Bool) :
    decodeStep (withSign v sgn) buf n p memErr = decodeStep v buf n p memErr := by
  simp only [decodeStep_eq, decodeBlock_withSign, undeltaBlock_withSign, withSign_bs]

theorem decodeBlocks_withSign (buf : InBuf) (n k : Nat) :
    decodeBlocks (withSign v sgn) buf n k = decodeBlocks v buf n k := by
  induction k with
  | zero => rfl
  | succ k ih => funext p memErr; rw [decodeBlocks_succ, decodeBlocks_succ, ih, decodeStep_withSign]

@[simp] theorem decodeStream_withSign (buf : InBuf) (n : Nat) :
    decodeStream (withSign v sgn) buf n = decodeStream v buf n := by
  simp only [decodeStream_eq, decodeBlocks_withSign, withSign_bs, withSign_size]

theorem runEnc_withSign (s : State) : runEnc (withSign v sgn) s = runEnc v s := by
  simp only [runEnc, encodeRun, stream_withSign]
  rfl

theorem runDec_withSign (s : State) : runDec (withSign v sgn) s = runDec v s := by
  simp only [runDec, decodeRun, decodeStream_withSign]
  rfl

end Signedness

/-- Settles O43: no part of the engine looks at the field, so neither do the two commands. -/
theorem signednessChangesNothing : Obligations.SignednessChangesNothing := by
  intro v sgn
  refine ⟨fun xs => ⟨deltas_withSign v sgn xs, stream_withSign v sgn xs⟩,
    fun k base vals => ⟨undeltaBlock_withSign v sgn k base vals, rfl⟩, decodeStream_withSign v sgn, fun s => ⟨?_, ?_⟩⟩
  · rw [exec_enc, exec_enc]
    exact runEnc_withSign v sgn s
  · rw [exec_dec, exec_dec]
    exact runDec_withSign v sgn s

end Sys2Proof.Machine

/-! The hidden progress of a running command (R31, R62): inner steps on the agenda iterate its block function. The
progress of an encode is the summary of the elements behind it, that of a decode is where the reader stands after as many
blocks. -/

namespace Sys2Proof.Machine

/-! ### Inner steps on the agenda (R29) -/

/-- A channel with other progress. -/
def withProg (c : Chan) (p : Progress) : Chan := { c with prog := p }

@[simp] theorem withProg_prog (c : Chan) (p : Progress) : (withProg c p).prog = p := rfl
@[simp] theorem withProg_eng (c : Chan) (p : Progress) : (withProg c p).eng = c.eng := rfl
@[simp] theorem withProg_withProg (c : Chan) (p q : Progress) : withProg (withProg c p) q = withProg c q := rfl
@[simp] theorem withProg_self (c : Chan) : withProg c c.prog = c := rfl

/-- The machine with another agenda and other progress in one channel: all that inner steps of its engine change. -/
def ticked (s : State) (ch : Nat) (rest : List Input) (p : Progress) : State :=
  ({ s with inputs := rest } : State).setChan ch (withProg (s.chan ch) p)

theorem ticked_chan {s : State} {ch : Nat} (rest : List Input) (p : Progress) (hch : ch < s.chans.length) :
    (ticked s ch rest p).chan ch = withProg (s.chan ch) p := setChan_chan_self _ ch _ hch

theorem ticked_ticked {s : State} {ch : Nat} (rest rest' : List Input) (p q : Progress) (hch : ch < s.chans.length) :
    ticked (ticked s ch rest p) ch rest' q = ticked s ch rest' q := by
  rw [ticked, ticked_chan rest p hch]
  simp [ticked, State.setChan]

theorem step_tick_of_busy {s : State} {ch : Nat} {rest : List Input} (hin : s.inputs = .tick ch :: rest)
    (hbusy : (s.chan ch).eng = .busy) : step s = .next (ticked s ch rest (s.progressOf (s.chan ch))) := by
  rw [step_tick s ch rest hin]
  exact congrArg _ (if_pos ((busy_iff _).2 hbusy))

/-- Inner steps of a busy channel, one after another, iterate what one of them makes of the progress. -/
theorem stepN_ticks {s : State} {ch : Nat} {rest : List Input} (f : Progress → Progress) (k : Nat)
    (hin : s.inputs = List.replicate k (.tick ch) ++ rest) (hbusy : (s.chan ch).eng = .busy)
    (hprog : ∀ p, s.progressOf (withProg (s.chan ch) p) = f p) :
    stepN k s = .next (ticked s ch rest (f^[k] (s.chan ch).prog)) := by
  have hch := lt_of_busy s ch ((busy_iff _).2 hbusy)
  induction k generalizing s with
  | zero =>
    obtain rfl : s.inputs = rest := hin
    exact congrArg _ (setChan_chan s ch).symm
  | succ k ih =>
    have hself := ticked_chan (List.replicate k (.tick ch) ++ rest) (s.progressOf (s.chan ch)) hch
    have htail := ih (s := ticked s ch _ _) rfl (by rw [hself]; exact hbusy) (by rw [hself]; exact hprog)
      (by simpa [ticked] using hch)
    rw [stepN_succ k s _ (step_tick_of_busy hin hbusy), Function.iterate_succ_apply, ← hprog, withProg_self]
    exact htail.trans (by rw [hself, ticked_ticked _ _ _ _ hch, withProg_prog])

/-! ### The block function of a running command (R29, R103) -/

theorem progressOf_enc {v : Variant} {s : State} {ch : Nat} (h : EncRunning v s ch) (p : Progress) :
    s.progressOf (withProg (s.chan ch) p) = encProgress v (s.chan ch).latch s p := by
  obtain ⟨-, hword, hunraced, hready⟩ := h
  have hkind : latchKind (s.chan ch).latch = some (.enc v) := by rw [latchKind, hword, ← kind_enc v]
  have hpre : precheckEnc s.params v (s.chan ch).latch = none :=
    (precheck_eq_none _ _ _ _ _ _).2 ⟨hready.capability, hready.inValid, hready.outValid, hready.capacity, hready.apart⟩
  have hin : onDevice s.port (encIn v (s.chan ch).latch) = false := hready.noDeviceIn
  have hout : onDevice s.port (encOut (s.chan ch).latch) = false := hready.noDeviceOut
  simp [State.progressOf, withProg, hunraced, hkind, hpre, hin, hout]

theorem progressOf_dec {v : Variant} {s : State} {ch : Nat} (h : DecRunning v s ch) (p : Progress) :
    s.progressOf (withProg (s.chan ch) p) = decProgress v (s.chan ch).latch s p := by
  obtain ⟨-, hword, hunraced, hready⟩ := h
  have hkind : latchKind (s.chan ch).latch = some (.dec v) := by rw [latchKind, hword, ← kind_dec v]
  have hpre : precheckDec s.params v (s.chan ch).latch = none :=
    (precheck_eq_none _ _ _ _ _ _).2 ⟨hready.capability, hready.inValid, hready.outValid, hready.capacity, hready.apart⟩
  have hin : onDevice s.port (decIn (s.chan ch).latch) = false := hready.noDeviceIn
  have hout : onDevice s.port (decOut v (s.chan ch).latch) = false := hready.noDeviceOut
  simp [State.progressOf, withProg, hunraced, hkind, hpre, hin, hout]

/-! ### The last element -/

theorem getLastD_append (xs ys : List Nat) (d : Nat) : (xs ++ ys).getLastD d = ys.getLastD (xs.getLastD d) := by
  simp only [List.getLastD_eq_getLast?, List.getLast?_append, Option.getD_or]

theorem getLastD_of_isPrefix {ys xs : List Nat} {d : Nat} (h : ys <+: xs) (hpos : 0 < ys.length) :
    ys.getLastD d = xs.getD (ys.length - 1) 0 := by
  obtain ⟨zs, rfl⟩ := h
  have hlast : ys.length - 1 < ys.length := by omega
  rw [List.getD_append _ _ _ _ hlast, List.getD_eq_getElem _ _ hlast, List.getLastD_eq_getLast?,
    List.getLast?_eq_getElem?, List.getElem?_eq_getElem hlast, Option.getD_some]

/-! ### The progress of an encode (R60, R61, R91) -/

theorem elemsAt_eq_take_drop (m : Memory) (a size : Nat) {i n count : Nat} (h : i + n ≤ count) :
    elemsAt m a size i n = ((elemsAt m a size 0 count).drop i).take n := by
  refine List.ext_getElem (by simp; omega) fun g h1 h2 => ?_
  simp [elemsAt]

theorem elemsAt_getLastD (m : Memory) (a size i d : Nat) {n : Nat} (h : 0 < n) :
    (elemsAt m a size i n).getLastD d = elemAt m a size (i + n - 1) := by
  obtain ⟨n, rfl⟩ := Nat.exists_eq_succ_of_ne_zero h.ne'
  rw [elemsAt, List.range_succ, List.map_append, List.map_singleton, List.getLastD_concat]
  rfl

/-- One block of an encode that can read it. -/
theorem encProgress_of_lt {v : Variant} {l : Latch} {s : State} {p : Progress}
    (hblock : p.block < blockCount l.count v.bs) (hport : portReads s.port (encIn v l) = true) :
    encProgress v l s p =
      let n := blockLen l.count v.bs p.block
      let xs := elemsAt s.mem l.src.toNat v.size (p.block * v.bs) n
      { block := p.block + 1,
        offset := (if p.block = 0 then v.size else p.offset) + (encodeBlock v (deltaBlock v p.block p.base xs)).length,
        elem := p.elem + n, base := xs.getLastD p.base, scratch := p.scratch } := by
  have hstart := (lt_blockCount_iff v _ _).1 hblock
  have hread : portReads s.port
      ⟨l.src.toNat + p.block * v.bs * v.size, blockLen l.count v.bs p.block * v.size⟩ = true := by
    refine portReads_part _ _ _ _ _ (Nat.le_add_right _ _) ?_ hport
    rw [Nat.add_assoc, ← Nat.add_mul]
    have hend : p.block * v.bs + blockLen l.count v.bs p.block ≤ l.count := by unfold blockLen; omega
    gcongr
  simp only [encProgress, hblock, hread, decide_true, Bool.and_self, if_true]

/-- The cut of a list of full blocks and one more. -/
theorem cut_append (bs k : Nat) (ds es : List Nat) (hds : ds.length = k * bs) (hes : es.length ≤ bs) :
    cut bs (k + 1) (ds ++ es) = cut bs k ds ++ [es] := by
  induction k generalizing ds with
  | zero =>
    obtain rfl : ds = [] := List.eq_nil_of_length_eq_zero (by omega)
    simp [cut, List.take_of_length_le hes]
  | succ k ih =>
    rw [Nat.succ_mul] at hds
    have hbs : bs ≤ ds.length := by omega
    rw [cut, List.take_append_of_le_length hbs, List.drop_append_of_le_length hbs, ih (ds.drop bs) (by simp; omega), cut,
      List.cons_append]

/-- The deltas of a block after full blocks, from the running baseline (R60 to R62). -/
theorem deltas_append_block (v : Variant) (k : Nat) (ys zs : List Nat) (h : ys.length = k * v.bs) :
    deltas v (ys ++ zs) = deltas v ys ++ deltaBlock v k (ys.getLastD 0) zs := by
  have hbs := bs_pos v
  unfold deltaBlock
  split
  · obtain rfl : ys = [] := List.eq_nil_of_length_eq_zero (by simp_all)
    rfl
  · rename_i hk
    exact deltas_append v zs (List.ne_nil_of_length_pos (h ▸ Nat.mul_pos (Nat.pos_of_ne_zero hk) hbs))

theorem deltaBlock_length (v : Variant) (k base : Nat) (xs : List Nat) :
    (deltaBlock v k base xs).length = xs.length := by
  unfold deltaBlock
  split
  · exact deltas_length v xs
  · exact deltasFrom_length v base xs

theorem blockCount_mul (v : Variant) (k : Nat) : blockCount (k * v.bs) v.bs = k :=
  eq_of_forall_lt_iff fun j => (lt_blockCount_iff v _ j).trans (Nat.mul_lt_mul_right (bs_pos v))

/-- The blocks of a sequence that ends in block `k`. -/
theorem blockCount_eq_succ (v : Variant) {n k : Nat} (hlo : k * v.bs < n) (hhi : n ≤ (k + 1) * v.bs) :
    blockCount n v.bs = k + 1 :=
  le_antisymm (not_lt.1 fun h => hhi.not_gt ((lt_blockCount_iff v n (k + 1)).1 h)) ((lt_blockCount_iff v n k).2 hlo)

theorem stream_length {v : Variant} {xs : List Nat} (h : xs ≠ []) :
    (stream v xs).length =
      v.size + ((cut v.bs (blockCount xs.length v.bs) (deltas v xs)).flatMap (encodeBlock v)).length := by
  obtain ⟨x, xs, rfl⟩ := List.exists_cons_of_ne_nil h
  rw [stream, List.length_append, leBytes_length]

section Blocks

variable {v : Variant} {k : Nat} {ys zs : List Nat} (hys : ys.length = k * v.bs) (hpos : 0 < zs.length)
  (hle : zs.length ≤ v.bs)

include hys hpos hle

theorem blockCount_append_block : blockCount (ys ++ zs).length v.bs = k + 1 := by
  refine blockCount_eq_succ v ?_ ?_ <;> rw [List.length_append, hys]
  · omega
  · rw [Nat.succ_mul]; omega

/-- A block more makes the stream longer by its bytes, and by the baseline's where it is the first (R91). -/
theorem stream_append_block_length :
    (stream v (ys ++ zs)).length =
      (if k = 0 then v.size else (stream v ys).length) + (encodeBlock v (deltaBlock v k (ys.getLastD 0) zs)).length := by
  have hcut : cut v.bs (k + 1) (deltas v (ys ++ zs)) =
      cut v.bs k (deltas v ys) ++ [deltaBlock v k (ys.getLastD 0) zs] := by
    rw [deltas_append_block v k ys zs hys]
    exact cut_append _ _ _ _ ((deltas_length v ys).trans hys) ((deltaBlock_length v k _ zs).trans_le hle)
  rw [stream_length (List.append_ne_nil_of_right_ne_nil ys (List.ne_nil_of_length_pos hpos)),
    blockCount_append_block hys hpos hle, hcut, List.flatMap_append, List.length_append, List.flatMap_singleton,
    ← Nat.add_assoc]
  split
  · subst k; rfl
  · rename_i hk
    have hne : ys ≠ [] := List.ne_nil_of_length_pos (hys ▸ Nat.mul_pos (Nat.pos_of_ne_zero hk) (bs_pos v))
    rw [stream_length hne, hys, blockCount_mul]

end Blocks

/-- The progress of an encode that has the elements `ys`, whole blocks, behind it. -/
def encSummary (v : Variant) (ys : List Nat) : Progress :=
  { block := blockCount ys.length v.bs, offset := (stream v ys).length, elem := ys.length, base := ys.getLastD 0,
    scratch := [] }

theorem encSummary_nil (v : Variant) : encSummary v [] = .start :=
  congrArg (fun k => ({ Progress.start with block := k } : Progress)) ((blockCount_eq_zero_iff v _).2 List.length_nil)

/-- An inner step takes the elements of the next block into the summary. -/
theorem encProgress_summary {v : Variant} {l : Latch} {s : State} {k : Nat} {ys : List Nat}
    (hk : k < blockCount l.count v.bs) (hport : portReads s.port (encIn v l) = true) (hys : ys.length = k * v.bs) :
    encProgress v l s (encSummary v ys) =
      encSummary v (ys ++ elemsAt s.mem l.src.toNat v.size (k * v.bs) (blockLen l.count v.bs k)) := by
  have hblock : (encSummary v ys).block = k := by rw [encSummary, hys, blockCount_mul]
  have hstart := (lt_blockCount_iff v _ _).1 hk
  have hbs := bs_pos v
  rw [encProgress_of_lt (by rwa [hblock]) hport, hblock]
  dsimp only
  have hlen := elemsAt_length s.mem l.src.toNat v.size (k * v.bs) (blockLen l.count v.bs k)
  generalize elemsAt s.mem l.src.toNat v.size (k * v.bs) (blockLen l.count v.bs k) = zs at *
  have hpos : 0 < zs.length := by rw [hlen, blockLen]; omega
  have hle : zs.length ≤ v.bs := by rw [hlen, blockLen]; omega
  simp only [encSummary, blockCount_append_block hys hpos hle, stream_append_block_length hys hpos hle, getLastD_append]
  rw [List.length_append, hlen]

/-- Inner steps of an encode, from the start: the progress is the summary of the blocks passed. -/
theorem encProgress_iterate {v : Variant} {l : Latch} {s : State} {k : Nat}
    (hport : portReads s.port (encIn v l) = true) (hk : k ≤ blockCount l.count v.bs) :
    (encProgress v l s)^[k] .start = encSummary v ((elemsAt s.mem l.src.toNat v.size 0 l.count).take (k * v.bs)) := by
  set xs := elemsAt s.mem l.src.toNat v.size 0 l.count with hxs
  have hlen : xs.length = l.count := elemsAt_length ..
  induction k with
  | zero => rw [Nat.zero_mul, List.take_zero, encSummary_nil]; rfl
  | succ k ih =>
    have hstart := (lt_blockCount_iff v _ _).1 hk
    have hblock : elemsAt s.mem l.src.toNat v.size (k * v.bs) (blockLen l.count v.bs k) =
        (xs.drop (k * v.bs)).take v.bs := by
      rw [elemsAt_eq_take_drop _ _ _ (count := l.count) (by unfold blockLen; omega), ← hxs, blockLen, ← hlen,
        ← List.length_drop]
      exact List.take_eq_take_min.symm
    rw [Function.iterate_succ_apply', ih (Nat.le_of_succ_le hk),
      encProgress_summary hk hport (by rw [List.length_take]; omega), hblock, ← List.take_add, ← Nat.succ_mul]

/-- Settles O13: after all blocks the summary is that of the whole input. -/
theorem encodeProgressReachesTheStream : Obligations.EncodeProgressReachesTheStream := by
  intro v s ch rest n hin hrun hstart hport
  have hsteps := stepN_ticks _ _ hin hrun.busy (progressOf_enc hrun)
  have hall : (encInput v { s with cur := ch }).take (blockCount n v.bs * v.bs) = encInput v { s with cur := ch } :=
    List.take_of_length_le ((elemsAt_length ..).trans_le (length_le_blocks v n))
  have hlen : (encInput v { s with cur := ch }).length = n := elemsAt_length ..
  have hprog := (encProgress_iterate hport le_rfl).trans (congrArg (encSummary v) hall)
  rw [hstart, hprog] at hsteps
  refine ⟨_, hsteps, rfl, rfl, ?_⟩
  rw [ticked_chan _ _ (lt_of_busy s ch ((busy_iff _).2 hrun.busy))]
  exact ⟨congrArg (blockCount · v.bs) hlen, hlen, rfl⟩

/-! ### The running baseline of an encode (R62) -/

/-- A block that is not the last leaves its last element as the running baseline. -/
theorem encProgress_base {v : Variant} {l : Latch} {s : State} {p : Progress}
    (hnext : p.block + 1 < blockCount l.count v.bs) (hport : portReads s.port (encIn v l) = true) :
    (encProgress v l s p).block = p.block + 1 ∧
      (encProgress v l s p).base = elemAt s.mem l.src.toNat v.size ((p.block + 1) * v.bs - 1) := by
  have hstart := (lt_blockCount_iff v _ _).1 hnext
  rw [Nat.succ_mul] at hstart ⊢
  have hfull : blockLen l.count v.bs p.block = v.bs := by unfold blockLen; omega
  rw [encProgress_of_lt (Nat.lt_of_succ_lt hnext) hport, hfull]
  exact ⟨rfl, elemsAt_getLastD _ _ _ _ _ (bs_pos v)⟩

/-! ### Bus errors stay noted (R113) -/

/-- A bus error has been met when reading a part ends. -/
def Parsed.noted {α : Type} : Parsed α → Bool
  | .ok _ c => c.memErr
  | .malformed c => c.memErr
  | .busError c => c.memErr

/-- A bus error has been met when a decode ends. -/
def StreamOut.noted : StreamOut → Bool
  | .done _ _ e => e
  | .malformed _ e => e
  | .busError _ => true

section Noted

variable {α β : Type} (v : Variant) (buf : InBuf)

theorem Parsed.noted_next {x : Parsed α} {k : α → Cursor → Parsed β} (hx : x.noted = true)
    (hk : ∀ a c, c.memErr = true → (k a c).noted = true) : (x.next k).noted = true := by
  cases x with
  | ok a c => exact hk a c hx
  | malformed c => exact hx
  | busError c => exact hx

theorem readField_noted (n : Nat) {c : Cursor} (h : c.memErr = true) : (readField buf n c).noted = true := by
  unfold readField
  split
  · simp [Parsed.noted, Cursor.truncated, h]
  · exact h

theorem readControl_noted (n : Nat) {c : Cursor} (h : c.memErr = true) : (readControl buf n c).noted = true := by
  rw [readControl_eq]
  refine Parsed.noted_next (readField_noted buf n h) fun p c' hc' => ?_
  split <;> exact hc'

theorem readData_noted (n : Nat) {c : Cursor} (h : c.memErr = true) : (readData buf n c).noted = true := by
  rw [readData_eq]
  exact Parsed.noted_next (readField_noted buf n h) fun p c' hc' => by simp [Parsed.noted, hc']

theorem readHeader_noted (w c : Nat) {cur : Cursor} (h : cur.memErr = true) : (readHeader buf w c cur).noted = true := by
  rw [readHeader_eq]
  refine Parsed.noted_next (readData_noted buf 3 h) fun hd cur' hcur' => ?_
  split
  · exact hcur'
  · split <;> exact hcur'

theorem patchApply_noted (w b c n : Nat) (vals : List Nat) {cur : Cursor} (h : cur.memErr = true) :
    (patchApply buf w b c n vals cur).noted = true := by
  induction n generalizing vals cur with
  | zero => exact h
  | succ n ih =>
    rw [patchApply_succ]
    refine Parsed.noted_next (readField_noted buf 1 h) fun p cur1 h1 => ?_
    refine Parsed.noted_next (readData_noted buf _ (by simp [h1])) fun hb cur2 h2 => ?_
    split
    · exact ih vals h2
    · split
      · exact h2
      · exact ih _ h2

theorem decodeExceptions_noted (w b c : Nat) (vals : List Nat) {cur : Cursor} (h : cur.memErr = true) :
    (decodeExceptions buf w b c vals cur).noted = true := by
  rw [decodeExceptions_eq]
  exact Parsed.noted_next (readControl_noted buf 1 h) fun nx cur1 h1 => patchApply_noted buf w b c _ vals h1

theorem decodeBlock_noted (c : Nat) {cur : Cursor} (h : cur.memErr = true) : (decodeBlock v buf c cur).noted = true := by
  rw [decodeBlock_eq]
  refine Parsed.noted_next (readHeader_noted buf _ c h) fun hd cur1 h1 => ?_
  refine Parsed.noted_next (readData_noted buf _ h1) fun payload cur2 h2 => ?_
  dsimp only
  split
  · exact Parsed.noted_next (decodeExceptions_noted buf _ _ c _ h2) fun vals cur3 h3 => h3
  · exact h2

theorem decodeStep_noted (n : Nat) (p : Progress) : (decodeStep v buf n p true).noted = true := by
  have hblock := decodeBlock_noted v buf (blockLen n v.bs p.block) (cur := ⟨p.offset, true⟩) rfl
  rw [decodeStep_eq]
  cases hr : decodeBlock v buf (blockLen n v.bs p.block) ⟨p.offset, true⟩ with
  | ok r c => rw [hr] at hblock; exact hblock
  | malformed c => rw [hr] at hblock; exact hblock
  | busError c => rfl

theorem decodeBlocks_noted (n k : Nat) (p : Progress) : (decodeBlocks v buf n k p true).noted = true := by
  induction k generalizing p with
  | zero => rfl
  | succ k ih =>
    have hstep := decodeStep_noted v buf n p
    rw [decodeBlocks_succ]
    cases hs : decodeStep v buf n p true with
    | done xs q e =>
      obtain rfl : e = true := by rw [hs] at hstep; exact hstep
      have htail := ih q
      rw [StreamOut.next]
      cases hb : decodeBlocks v buf n k q true <;> rw [hb] at htail <;> exact htail
    | malformed q e => rw [hs] at hstep; exact hstep
    | busError q => rfl

end Noted

/-! ### The blocks of a decode that every read answers (R101) -/

section Decode

variable {v : Variant} {buf : InBuf} {n : Nat}

/-- The first of several blocks, and the rest. -/
theorem decodeBlocks_succ_done {k : Nat} {p q : Progress} {e : Bool} {xs : List Nat}
    (h : decodeBlocks v buf n (k + 1) p e = .done xs q false) :
    ∃ ys zs r, decodeStep v buf n p e = .done ys r false ∧ decodeBlocks v buf n k r false = .done zs q false ∧
      xs = ys ++ zs := by
  rw [decodeBlocks_succ] at h
  cases hs : decodeStep v buf n p e with
  | done ys r e' =>
    rw [hs, StreamOut.next] at h
    cases hb : decodeBlocks v buf n k r e' with
    | done zs q' f =>
      rw [hb] at h
      obtain ⟨rfl, rfl, rfl⟩ := StreamOut.done.inj h
      cases e' with
      | false => exact ⟨ys, zs, r, rfl, hb, rfl⟩
      | true =>
        have hnoted := decodeBlocks_noted v buf n k r
        rw [hb] at hnoted
        cases hnoted
    | malformed q' f => rw [hb] at h; cases h
    | busError q' => rw [hb] at h; cases h
  | malformed r e' => rw [hs] at h; cases h
  | busError r => rw [hs] at h; cases h

/-- Fewer blocks give the first of the elements. -/
theorem decodeBlocks_of_le {j k : Nat} {p q : Progress} {xs : List Nat} (hj : j ≤ k)
    (h : decodeBlocks v buf n k p false = .done xs q false) :
    ∃ ys r, decodeBlocks v buf n j p false = .done ys r false ∧ ys <+: xs := by
  induction j generalizing k p xs with
  | zero => exact ⟨[], p, rfl, xs, rfl⟩
  | succ j ih =>
    obtain ⟨k, rfl⟩ := Nat.exists_eq_add_of_le' hj
    obtain ⟨ys, zs, r, hstep, hrest, rfl⟩ := decodeBlocks_succ_done (k := k + j) h
    obtain ⟨ws, r', hws, us, rfl⟩ := ih (Nat.le_add_left j k) hrest
    exact ⟨ys ++ ws, r', by rw [decodeBlocks_succ, hstep, StreamOut.next, hws, StreamOut.after],
      us, List.append_assoc ..⟩

theorem decodeStep_elem {p q : Progress} {e f : Bool} {xs : List Nat} (h : decodeStep v buf n p e = .done xs q f) :
    q.elem = p.elem + xs.length := by
  rw [decodeStep_eq] at h
  cases hr : decodeBlock v buf (blockLen n v.bs p.block) ⟨p.offset, e⟩ with
  | ok r c => rw [hr] at h; obtain ⟨rfl, rfl, -⟩ := StreamOut.done.inj h; rfl
  | malformed c => rw [hr] at h; cases h
  | busError c => rw [hr] at h; cases h

/-- All that blocks do to the progress but its offset: the block index, the elements counted, and the last of them as the
running baseline. -/
theorem decodeBlocks_progress {k : Nat} {p q : Progress} {xs : List Nat}
    (h : decodeBlocks v buf n k p false = .done xs q false) :
    q.block = p.block + k ∧ q.elem = p.elem + xs.length ∧ q.base = xs.getLastD p.base ∧
      min (p.block * v.bs) n + xs.length = min ((p.block + k) * v.bs) n := by
  induction k generalizing p xs with
  | zero =>
    obtain ⟨rfl, rfl, -⟩ := StreamOut.done.inj h
    exact ⟨rfl, rfl, rfl, rfl⟩
  | succ k ih =>
    obtain ⟨ys, zs, r, hstep, hrest, rfl⟩ := decodeBlocks_succ_done h
    obtain ⟨hlen, hblock, hbase, -⟩ := decodeStep_done _ _ _ _ _ _ _ _ hstep
    have helem := decodeStep_elem hstep
    obtain ⟨hblock', helem', hbase', hcount⟩ := ih hrest
    have hmul : (p.block + 1) * v.bs = p.block * v.bs + v.bs := Nat.succ_mul _ _
    have hindex : p.block + 1 + k = p.block + (k + 1) := by omega
    rw [hblock, hmul, hindex] at hcount
    rw [List.length_append, getLastD_append, ← hbase]
    refine ⟨by omega, by omega, hbase', ?_⟩
    rw [hlen, blockLen] at *
    omega

/-- A decode that every read answers: its baseline, then its blocks. -/
theorem decodeStream_done_blocks {xs : List Nat} {q : Progress} (hn : n ≠ 0)
    (h : decodeStream v buf n = .done xs q false) :
    ∃ offset base, readBaseline v buf = some (.afterBase offset base) ∧
      decodeBlocks v buf n (blockCount n v.bs) (.afterBase offset base) false = .done xs q false := by
  rw [decodeStream_eq, if_neg hn] at h
  cases hr : readData buf v.size { pos := 0, memErr := false } with
  | ok bs c =>
    obtain ⟨pos, memErr⟩ := c
    rw [hr, Parsed.decode] at h
    cases memErr with
    | false => exact ⟨pos, fromLE bs, by rw [readBaseline, hr], h⟩
    | true =>
      have hnoted := decodeBlocks_noted v buf n (blockCount n v.bs) (.afterBase pos (fromLE bs))
      rw [h] at hnoted
      cases hnoted
  | malformed c => rw [hr] at h; cases h
  | busError c => rw [hr] at h; cases h

end Decode

/-! ### The progress of a decode (R100, R101) -/

section DecodeSteps

variable {v : Variant} {l : Latch} {s : State}

/-- One block of a decode that every read answers, from the progress `b` that it starts at. -/
theorem decProgress_of_done {p b r : Progress} {ys : List Nat} (hblock : p.block < blockCount l.count v.bs)
    (hb : (if p.block = 0 then readBaseline v (s.inBuf l) else some p) = some b)
    (hstep : decodeStep v (s.inBuf l) l.count b false = .done ys r false) : decProgress v l s p = r := by
  simp only [decProgress, if_pos hblock, hb, hstep]

/-- Inner steps of a decode are its blocks, one each; the first reads the baseline too. -/
theorem decProgress_iterate {j : Nat} {p b r : Progress} {ys : List Nat}
    (hb : (if p.block = 0 then readBaseline v (s.inBuf l) else some p) = some b) (hblock : b.block = p.block)
    (hj : p.block + (j + 1) ≤ blockCount l.count v.bs)
    (h : decodeBlocks v (s.inBuf l) l.count (j + 1) b false = .done ys r false) : (decProgress v l s)^[j + 1] p = r := by
  induction j generalizing p b ys with
  | zero =>
    obtain ⟨ys, zs, r', hstep, hrest, -⟩ := decodeBlocks_succ_done h
    obtain ⟨-, rfl, -⟩ := StreamOut.done.inj hrest
    exact decProgress_of_done (by omega) hb hstep
  | succ j ih =>
    obtain ⟨ys, zs, r', hstep, hrest, -⟩ := decodeBlocks_succ_done h
    obtain ⟨-, hblock', -, -⟩ := decodeStep_done _ _ _ _ _ _ _ _ hstep
    rw [Function.iterate_succ_apply, decProgress_of_done (by omega) hb hstep]
    exact ih (if_neg (by omega)) rfl (by omega) hrest

/-- Inner steps of a decode, from the start. -/
theorem decProgress_iterate_start {k : Nat} {xs : List Nat} {q : Progress}
    (hdone : decodeStream v (s.inBuf l) l.count = .done xs q false) (hk : k ≤ blockCount l.count v.bs) :
    let p := (decProgress v l s)^[k] .start
    p.block = k ∧ p.elem = min (k * v.bs) l.count ∧ (0 < k → p.base = xs.getD (min (k * v.bs) l.count - 1) 0) ∧
      (k = blockCount l.count v.bs → p = q) := by
  cases k with
  | zero =>
    refine ⟨rfl, by rw [Nat.zero_mul, Nat.zero_min]; rfl, fun h => absurd h (lt_irrefl 0), fun h => ?_⟩
    rw [decodeStream_eq, if_pos ((blockCount_eq_zero_iff v _).1 h.symm)] at hdone
    exact (StreamOut.done.inj hdone).2.1
  | succ j =>
    have hn : l.count ≠ 0 := fun h => by rw [(blockCount_eq_zero_iff v _).2 h] at hk; omega
    obtain ⟨offset, base, hbase, hblocks⟩ := decodeStream_done_blocks hn hdone
    obtain ⟨ys, r, hys, hpre⟩ := decodeBlocks_of_le hk hblocks
    obtain ⟨hblock, helem, hlast, hcount⟩ := decodeBlocks_progress hys
    rw [show (Progress.afterBase offset base).block = 0 from rfl, Nat.zero_add] at hblock hcount
    rw [Nat.zero_mul, Nat.zero_min, Nat.zero_add] at hcount
    rw [show (Progress.afterBase offset base).elem = 0 from rfl, Nat.zero_add] at helem
    have hstart : Progress.start.block + (j + 1) ≤ blockCount l.count v.bs := (Nat.zero_add (j + 1)).trans_le hk
    intro p
    obtain rfl : p = r := decProgress_iterate hbase rfl hstart hys
    refine ⟨hblock, helem.trans hcount, fun _ => ?_, fun hall => ?_⟩
    · have hpos : 0 < ys.length := by
        rw [hcount, lt_min_iff]
        exact ⟨Nat.mul_pos j.succ_pos (bs_pos v), Nat.pos_of_ne_zero hn⟩
      rw [hlast, getLastD_of_isPrefix hpre hpos, hcount]
    · rw [hall, hblocks] at hys
      exact (StreamOut.done.inj hys).2.1.symm

end DecodeSteps

/-- Settles O12: the next block's baseline of an encode, and the blocks of a decode one by one. -/
theorem runningBaselineIsThePreviousElement : Obligations.RunningBaselineIsThePreviousElement := by
  constructor
  · intro v s ch rest l p hin hrun hnext hport
    obtain ⟨hblock, hbase⟩ := encProgress_base (p := p) hnext hport
    refine ⟨_, step_tick_of_busy hin hrun.busy, ?_⟩
    rw [ticked_chan _ _ (lt_of_busy s ch ((busy_iff _).2 hrun.busy)), withProg_prog, ← withProg_self (s.chan ch),
      progressOf_enc hrun]
    exact ⟨hblock, hbase⟩
  · intro v s ch k rest xs q n hin hrun hstart hdone hk
    have hsteps := stepN_ticks _ k hin hrun.busy (progressOf_dec hrun)
    rw [hstart] at hsteps
    refine ⟨_, hsteps, rfl, rfl, ?_⟩
    rw [ticked_chan _ _ (lt_of_busy s ch ((busy_iff _).2 hrun.busy)), withProg_prog]
    exact decProgress_iterate_start hdone hk

end Sys2Proof.Machine

/-! The width selector and the exception set of a block (41_bitwidth.md): the selected width is the smallest that keeps
the exception budget (R69, R71), and the exceptions are the block's slots that do not fit it, each with its high part
(R73). -/

namespace Sys2Proof.Machine

/-! ### The smallest width (R69) -/

/-- Every width that the search of R69 passes over exceeds the budget. -/
theorem budget_lt_countOver_of_lt_selectFrom {vals : List Nat} {fuel start b : Nat} (hstart : start ≤ b)
    (hb : b < selectFrom vals fuel start) : budget vals.length < countOver vals b := by
  induction fuel generalizing start with
  | zero => exact absurd hb hstart.not_gt
  | succ fuel ih =>
    rw [selectFrom] at hb
    split at hb
    · exact absurd hb hstart.not_gt
    · rename_i hover
      obtain rfl | hlater := hstart.eq_or_lt
      · exact not_le.1 hover
      · exact ih hlater hb

/-- Settles O51: the search tries the widths from 0 up, and width `W` keeps the budget. -/
theorem selectedWidthIsTheSmallest : Obligations.SelectedWidthIsTheSmallest := by
  intro vals w hfits
  obtain ⟨hle, hbudget⟩ := selectB_spec hfits
  exact ⟨hle, hbudget, fun b hb => budget_lt_countOver_of_lt_selectFrom b.zero_le hb⟩

/-! ### The exception set (R73) -/

/-- The exception set is the comprehension of R73: the numbered slots whose value is at least `2^b`, with the value
replaced by its high part. -/
theorem exceptionsFrom_eq (b j : Nat) (vals : List Nat) :
    exceptionsFrom b j vals =
      ((vals.zipIdx j).filter fun p => 2 ^ b ≤ p.1).map fun p => (p.2, p.1 / 2 ^ b) := by
  induction vals generalizing j with
  | nil => rfl
  | cons x xs ih =>
    rw [exceptionsFrom, ih, List.zipIdx_cons]
    by_cases hx : 2 ^ b ≤ x
    · simp [hx]
    · simp [hx]

theorem mem_exceptions_iff (vals : List Nat) (b j h : Nat) :
    (j, h) ∈ exceptions vals b ↔ j < vals.length ∧ 2 ^ b ≤ vals.getD j 0 ∧ h = vals.getD j 0 / 2 ^ b := by
  rw [exceptions, exceptionsFrom_eq, List.mem_map]
  constructor
  · rintro ⟨⟨x, i⟩, hp, heq⟩
    obtain ⟨hslot, hover⟩ := List.mem_filter.1 hp
    have hget : vals[i]? = some x := List.mem_zipIdx_iff_getElem?.1 hslot
    obtain ⟨hi, rfl⟩ := List.getElem?_eq_some_iff.1 hget
    obtain ⟨rfl, rfl⟩ := Prod.mk.inj heq
    rw [List.getD_eq_getElem _ _ hi]
    exact ⟨hi, of_decide_eq_true hover, rfl⟩
  · rintro ⟨hj, hover, rfl⟩
    rw [List.getD_eq_getElem _ _ hj] at hover ⊢
    have hslot : (vals[j], j) ∈ vals.zipIdx := List.mem_zipIdx_iff_getElem?.2 (List.getElem?_eq_getElem hj)
    exact ⟨_, List.mem_filter.2 ⟨hslot, decide_eq_true hover⟩, rfl⟩

theorem one_le_high_of_mem_exceptions {vals : List Nat} {b : Nat} {e : Nat × Nat} (he : e ∈ exceptions vals b) :
    1 ≤ e.2 := by
  obtain ⟨-, hover, hhigh⟩ := (mem_exceptions_iff vals b e.1 e.2).1 he
  rw [hhigh]
  exact Nat.div_pos hover (Nat.two_pow_pos b)

/-- The slots of an exception set increase: they are a sublist of the block's slots `0, 1, …, c - 1`. -/
theorem exceptions_slots_increasing (vals : List Nat) (b : Nat) :
    ((exceptions vals b).map Prod.fst).Pairwise (· < ·) := by
  have hslots : (exceptions vals b).map Prod.fst =
      ((vals.zipIdx 0).filter fun p => 2 ^ b ≤ p.1).map Prod.snd := by
    rw [exceptions, exceptionsFrom_eq, List.map_map]
    rfl
  have hsub : ((exceptions vals b).map Prod.fst).Sublist (List.range' 0 vals.length) := by
    rw [hslots, ← List.zipIdx_map_snd]
    exact List.filter_sublist.map _
  exact List.Pairwise.sublist hsub List.pairwise_lt_range'

theorem lowParts_getD (vals : List Nat) (b j : Nat) : (lowParts vals b).getD j 0 = vals.getD j 0 % 2 ^ b := by
  calc (lowParts vals b).getD j 0 = (lowParts vals b).getD j (0 % 2 ^ b) := by rw [Nat.zero_mod]
    _ = vals.getD j 0 % 2 ^ b := List.getD_map vals 0 (· % 2 ^ b)

/-- Settles O52: the exception set is the comprehension of R73, and the selected width keeps the budget. -/
theorem exceptionSetOfABlock : Obligations.ExceptionSetOfABlock := by
  intro vals w hfits b
  have hbudget : (exceptions vals b).length ≤ vals.length / 32 :=
    (exceptions_length vals b).trans_le (selectB_spec hfits).2
  refine ⟨mem_exceptions_iff vals b, fun _ => one_le_high_of_mem_exceptions, exceptions_slots_increasing vals b, hbudget,
    fun hblock => ?_, fun j _ => lowParts_getD vals b j⟩
  calc (exceptions vals b).length ≤ vals.length / 32 := hbudget
    _ ≤ 256 / 32 := Nat.div_le_div_right hblock
    _ = 8 := rfl

end Sys2Proof.Machine

/-! The bit packer (42_bitpack.md): a lane's bit string is a number in base `2^b` whose digits are the lane's values, and the
same number in base `2^32` is its lane words (R76, R77). So the payload gives back every lane word, the words give back the
bit string, and the bit string gives back the values (R83). -/

namespace Sys2Proof

/-! ### Slices of equally long pieces (R11) -/

theorem slice_append_of_le {s : List Byte} {a n : Nat} (t : List Byte) (h : a + n ≤ s.length) :
    slice (s ++ t) a n = slice s a n := by
  rw [slice, slice, List.drop_append_of_le_length (by omega), List.take_append_of_le_length (by simp; omega)]

theorem slice_append_length_add (s t : List Byte) (a n : Nat) : slice (s ++ t) (s.length + a) n = slice t a n := by
  rw [slice, slice, ← List.drop_drop, List.drop_left]

/-- A slice that lies in piece `i` of pieces of `size` bytes each is a slice of that piece. -/
theorem slice_flatMap {α : Type} {f : α → List Byte} {size : Nat} (hf : ∀ x, (f x).length = size) (l : List α)
    {i : Nat} (hi : i < l.length) {a n : Nat} (han : a + n ≤ size) :
    slice (l.flatMap f) (i * size + a) n = slice (f l[i]) a n := by
  induction l generalizing i with
  | nil => exact absurd hi (Nat.not_lt_zero i)
  | cons x l ih =>
    rw [List.flatMap_cons]
    cases i with
    | zero =>
      rw [Nat.zero_mul, Nat.zero_add]
      exact slice_append_of_le _ (han.trans_eq (hf x).symm)
    | succ i =>
      have hpast : (i + 1) * size + a = (f x).length + (i * size + a) := by rw [hf x]; ring
      rw [hpast, slice_append_length_add]
      exact ih (Nat.lt_of_succ_lt_succ hi)

namespace Machine

/-! ### Bit strings as numbers in base `2^b` (R76) -/

theorem laneBits_zero (b : Nat) (val : Nat → Nat) : laneBits b val 0 = 0 := rfl

/-- The first value is the lowest digit, and the others are the digits above it. -/
theorem laneBits_succ (b : Nat) (val : Nat → Nat) (m : Nat) :
    laneBits b val (m + 1) = val 0 + 2 ^ b * laneBits b (fun t => val (t + 1)) m := by
  simp only [laneBits, List.range_succ_eq_map, List.map_cons, List.map_map, List.sum_cons, Nat.zero_mul, pow_zero,
    Nat.mul_one, ← List.sum_map_mul_left]
  congr 3
  funext t
  simp only [Function.comp_apply, Nat.succ_eq_add_one, Nat.add_mul, Nat.one_mul, pow_add]
  ring

theorem laneBits_congr {b m : Nat} {val val' : Nat → Nat} (h : ∀ t < m, val t = val' t) :
    laneBits b val m = laneBits b val' m := by
  unfold laneBits
  rw [List.map_congr_left fun t ht => by rw [h t (List.mem_range.1 ht)]]

theorem laneBits_lt {b : Nat} {val : Nat → Nat} (hval : ∀ t, val t < 2 ^ b) (m : Nat) :
    laneBits b val m < 2 ^ (m * b) := by
  induction m generalizing val with
  | zero => simp [laneBits_zero]
  | succ m ih =>
    have hrest := ih fun t => hval (t + 1)
    calc laneBits b val (m + 1) = val 0 + 2 ^ b * laneBits b (fun t => val (t + 1)) m := laneBits_succ ..
      _ < 2 ^ b + 2 ^ b * laneBits b (fun t => val (t + 1)) m := Nat.add_lt_add_right (hval 0) _
      _ = 2 ^ b * (laneBits b (fun t => val (t + 1)) m + 1) := by ring
      _ ≤ 2 ^ b * 2 ^ (m * b) := Nat.mul_le_mul_left _ hrest
      _ = 2 ^ ((m + 1) * b) := by ring

/-- The bits `[t*b, t*b + b)` of the bit string are value `t`. -/
theorem laneBits_digit {b : Nat} {val : Nat → Nat} (hval : ∀ t, val t < 2 ^ b) {t m : Nat} (ht : t < m) :
    laneBits b val m / 2 ^ (t * b) % 2 ^ b = val t := by
  induction t generalizing val m with
  | zero =>
    obtain ⟨m, rfl⟩ := Nat.exists_eq_succ_of_ne_zero ht.ne'
    rw [laneBits_succ, Nat.zero_mul, pow_zero, Nat.div_one, Nat.add_mul_mod_self_left, Nat.mod_eq_of_lt (hval 0)]
  | succ t ih =>
    obtain ⟨m, rfl⟩ := Nat.exists_eq_succ_of_ne_zero (Nat.ne_zero_of_lt ht)
    have hpow : 2 ^ ((t + 1) * b) = 2 ^ b * 2 ^ (t * b) := by ring
    rw [laneBits_succ, hpow, ← Nat.div_div_eq_div_mul, Nat.add_mul_div_left _ _ (Nat.two_pow_pos b),
      Nat.div_eq_of_lt (hval 0), Nat.zero_add]
    exact ih (fun t => hval (t + 1)) (Nat.lt_of_succ_lt_succ ht)

/-- The digits of a number make its low bits. -/
theorem laneBits_of_digits (b z m : Nat) : laneBits b (fun t => z / 2 ^ (t * b) % 2 ^ b) m = z % 2 ^ (m * b) := by
  induction m generalizing z with
  | zero => rw [laneBits_zero, Nat.zero_mul, pow_zero, Nat.mod_one]
  | succ m ih =>
    have hpow (t : Nat) : 2 ^ ((t + 1) * b) = 2 ^ b * 2 ^ (t * b) := by ring
    simp only [laneBits_succ, hpow, ← Nat.div_div_eq_div_mul, ih, Nat.mod_mul, Nat.zero_mul, pow_zero, Nat.div_one]

/-- The unpacker's bit string is a number in base `2^32` whose digits are the lane's words (R81). -/
theorem unpackLane_eq (payload : List Byte) (lanes words k : Nat) :
    unpackLane payload lanes words k =
      laneBits 32 (fun q => fromLE (slice payload (4 * (q * lanes + k)) 4)) words := by
  simp only [unpackLane, laneBits, Nat.mul_comm 32]

/-! ### Lanes and their words (R76, R77) -/

/-- The bit string `Z_k` of lane `k` (R76). -/
def laneString (lo : List Nat) (b lanes k : Nat) : Nat :=
  laneBits b (fun t => lo.getD (t * lanes + k) 0) (laneLen lo.length lanes)

theorem pack_eq (lo : List Nat) (b lanes : Nat) :
    pack lo b lanes = (List.range (laneWords lo.length lanes b)).flatMap fun q =>
      (List.range lanes).flatMap fun k => leBytes 4 (laneString lo b lanes k / 2 ^ (32 * q) % 2 ^ 32) := rfl

theorem getD_lt_two_pow {lo : List Nat} {b : Nat} (h : ∀ x ∈ lo, x < 2 ^ b) (j : Nat) : lo.getD j 0 < 2 ^ b := by
  by_cases hj : j < lo.length
  · rw [List.getD_eq_getElem _ _ hj]
    exact h _ (List.getElem_mem hj)
  · rw [List.getD_eq_default _ _ (not_lt.1 hj)]
    exact Nat.two_pow_pos b

/-- The `P` lane words hold the whole bit string. -/
theorem laneString_lt {lo : List Nat} {b : Nat} (h : ∀ x ∈ lo, x < 2 ^ b) (lanes k : Nat) :
    laneString lo b lanes k < 2 ^ (laneWords lo.length lanes b * 32) := by
  have hwords : laneLen lo.length lanes * b ≤ laneWords lo.length lanes b * 32 := by
    unfold laneWords ceilDiv; omega
  exact (laneBits_lt (fun _ => getD_lt_two_pow h _) _).trans_le (Nat.pow_le_pow_right two_pos hwords)

/-- Payload word `q*L + k` is lane word `q` of lane `k` (R77). -/
theorem slice_pack (lo : List Nat) (b : Nat) {lanes q k : Nat} (hq : q < laneWords lo.length lanes b) (hk : k < lanes) :
    slice (pack lo b lanes) (4 * (q * lanes + k)) 4 =
      leBytes 4 (laneString lo b lanes k / 2 ^ (32 * q) % 2 ^ 32) := by
  have hrow (q : Nat) : ((List.range lanes).flatMap fun k =>
      leBytes 4 (laneString lo b lanes k / 2 ^ (32 * q) % 2 ^ 32)).length = lanes * 4 := by
    simp [List.length_flatMap]
  have hplace : 4 * (q * lanes + k) = q * (lanes * 4) + (k * 4 + 0) := by ring
  rw [pack_eq, hplace, slice_flatMap hrow _ (by simpa using hq) (by omega),
    slice_flatMap (fun _ => leBytes_length 4 _) _ (by simpa using hk) (by omega), List.getElem_range, List.getElem_range]
  exact List.take_of_length_le (leBytes_length 4 _).le

/-- The unpacker reads every lane's bit string back. -/
theorem unpackLane_pack {lo : List Nat} {b : Nat} (h : ∀ x ∈ lo, x < 2 ^ b) {lanes k : Nat} (hk : k < lanes) :
    unpackLane (pack lo b lanes) lanes (laneWords lo.length lanes b) k = laneString lo b lanes k := by
  have hword : ∀ q < laneWords lo.length lanes b, fromLE (slice (pack lo b lanes) (4 * (q * lanes + k)) 4) =
      laneString lo b lanes k / 2 ^ (q * 32) % 2 ^ 32 := fun q hq => by
    rw [slice_pack lo b hq hk, Nat.mul_comm 32 q]
    exact fromLE_leBytes_of_lt 4 _ (Nat.mod_lt _ (by decide))
  rw [unpackLane_eq, laneBits_congr hword, laneBits_of_digits, Nat.mod_eq_of_lt (laneString_lt h lanes k)]

/-! ### What was packed (R78, R83) -/

/-- The scratch holds the values, and 0 in the padding slots past them. -/
theorem unpackScratch_pack {lo : List Nat} {b lanes : Nat} (h : ∀ x ∈ lo, x < 2 ^ b) (hlanes : 0 < lanes) :
    unpackScratch (pack lo b lanes) b lanes lo.length =
      (List.range (lanes * laneLen lo.length lanes)).map fun j => lo.getD j 0 := by
  refine List.map_congr_left fun j hj => ?_
  have hslot : j / lanes < laneLen lo.length lanes := Nat.div_lt_of_lt_mul (List.mem_range.1 hj)
  rw [unpackLane_pack h (Nat.mod_lt j hlanes), laneString, laneBits_digit (fun _ => getD_lt_two_pow h _) hslot,
    Nat.div_add_mod']

/-- Settles O54: the scratch's first `c` slots are the values. -/
theorem unpackInvertsPack : Obligations.UnpackInvertsPack := by
  intro lo b lanes hlanes h
  have hroom : lo.length ≤ lanes * laneLen lo.length lanes := le_mul_ceilDiv lo.length lanes hlanes
  rw [unpack, unpackScratch_pack h hlanes]
  refine List.ext_getElem (by simpa using hroom) fun j _ hj => ?_
  rw [List.getElem_take, List.getElem_map, List.getElem_range, List.getD_eq_getElem _ _ hj]

/-- At `b = 0` the lanes have no words (R78). -/
theorem payloadSize_zero (c lanes : Nat) : payloadSize c lanes 0 = 0 := by
  simp [payloadSize, laneWords, ceilDiv]

/-- Settles O53: the size of R78, for any block, a full one and one of width 0. -/
theorem payloadSizeOfABlock : Obligations.PayloadSizeOfABlock := by
  intro lo b lanes hlanes
  refine ⟨pack_length lo b lanes, fun hfull => ?_, fun hb => ?_⟩
  · rw [pack_length, hfull, payloadSize_full lanes b hlanes]
  · rw [← List.length_eq_zero_iff, pack_length, hb, payloadSize_zero]

end Machine

end Sys2Proof

/-! The exception list of a block (43_patch.md): the reader gives back the entries that the list holds, and each entry ORs a
high part to the low part in its slot (R88), so that the slots before the entry are the values already and those after it
still the low parts. With no entry left, all slots are the values (R90). -/

namespace Sys2Proof.Machine

/-! ### Fields that the buffer holds (R97) -/

section Reading

variable {buf : InBuf} {cur : Cursor} {bs : List Byte} {n : Nat}

/-- What the buffer holds in two parts. -/
theorem Holds.append {off : Nat} {cs : List Byte} (h : Holds buf off (bs ++ cs)) :
    Holds buf off bs ∧ Holds buf (off + bs.length) cs := by
  obtain ⟨hbytes, hlimit, hport⟩ := h
  rw [List.length_append] at hbytes hlimit hport
  rw [read_append] at hbytes
  obtain ⟨hfirst, hsecond⟩ := List.append_inj hbytes (read_length _ _ _)
  exact ⟨⟨hfirst, by omega, portReads_part _ _ _ _ _ le_rfl (by omega) hport⟩,
    ⟨by rwa [← Nat.add_assoc], by omega, portReads_part _ _ _ _ _ (by omega) (by omega) hport⟩⟩

theorem readField_of_holds (h : Holds buf cur.pos bs) (hn : bs.length = n) :
    readField buf n cur = .ok (bs, true) { cur with pos := cur.pos + n } := by
  subst hn
  rw [readField, if_neg h.limit.not_gt, h.bytes, h.port]

theorem readControl_of_holds (h : Holds buf cur.pos bs) (hn : bs.length = n) :
    readControl buf n cur = .ok bs { cur with pos := cur.pos + n } := by
  rw [readControl_eq, readField_of_holds h hn]
  rfl

/-- A field that the buffer holds is read with no bus error to note. -/
theorem readData_of_holds (h : Holds buf cur.pos bs) (hn : bs.length = n) :
    readData buf n cur = .ok bs { cur with pos := cur.pos + n } := by
  rw [readData_eq, readField_of_holds h hn]
  simp [Parsed.next]

end Reading

/-! ### Reading the entries (R86, R88) -/

/-- The values once the entries of a list are applied in list order (R88). -/
def patchAll (w b : Nat) (es : List (Nat × Nat)) (vals : List Nat) : List Nat :=
  es.foldl (fun vals e => patchAt w b vals e.1 e.2) vals

@[simp] theorem patchAll_nil (w b : Nat) (vals : List Nat) : patchAll w b [] vals = vals := rfl

@[simp] theorem patchAll_cons (w b : Nat) (e : Nat × Nat) (es : List (Nat × Nat)) (vals : List Nat) :
    patchAll w b (e :: es) vals = patchAll w b es (patchAt w b vals e.1 e.2) := rfl

/-- An entry names a slot of a block of `c` and fits its bytes (R86). -/
structure EntryFits (w b c : Nat) (e : Nat × Nat) : Prop where
  slot : e.1 < c
  slotByte : e.1 < 256
  high : e.2 < 256 ^ highBytes w b

@[simp] theorem patchEntry_length (w b : Nat) (e : Nat × Nat) : (patchEntry w b e).length = 1 + highBytes w b := by
  simp [patchEntry]

/-- The entry at the cursor is read and applied, and the next ones follow. -/
theorem patchApply_entry {buf : InBuf} {w b c : Nat} {cur : Cursor} {e : Nat × Nat} (he : EntryFits w b c e)
    (h : Holds buf cur.pos (patchEntry w b e)) (n : Nat) (vals : List Nat) :
    patchApply buf w b c (n + 1) vals cur = patchApply buf w b c n (patchAt w b vals e.1 e.2)
      { cur with pos := cur.pos + (patchEntry w b e).length } := by
  obtain ⟨hslot, hhigh⟩ := h.append
  rw [leBytes_length] at hhigh
  have hslotByte : fromLE (leBytes 1 e.1) = e.1 := fromLE_leBytes_of_lt 1 _ he.slotByte
  have hhighBytes : fromLE (leBytes (highBytes w b) e.2) = e.2 := fromLE_leBytes_of_lt _ _ he.high
  have hdata := readData_of_holds (cur := { cur with pos := cur.pos + 1 }) hhigh (leBytes_length _ _)
  rw [patchApply_succ, readField_of_holds hslot (leBytes_length 1 _)]
  simp [Parsed.next, hdata, hslotByte, hhighBytes, he.slot.not_ge, Nat.add_assoc]

/-- All entries are read and applied, and the cursor moves past them. -/
theorem patchApply_entries {buf : InBuf} {w b c : Nat} {es : List (Nat × Nat)} (hes : ∀ e ∈ es, EntryFits w b c e)
    {cur : Cursor} (h : Holds buf cur.pos (es.flatMap (patchEntry w b))) (vals : List Nat) :
    patchApply buf w b c es.length vals cur =
      .ok (patchAll w b es vals) { cur with pos := cur.pos + (es.flatMap (patchEntry w b)).length } := by
  induction es generalizing cur vals with
  | nil => rfl
  | cons e es ih =>
    obtain ⟨he, hes⟩ := List.forall_mem_cons.1 hes
    rw [List.flatMap_cons] at h
    obtain ⟨hentry, hrest⟩ := h.append
    rw [List.length_cons, patchApply_entry he hentry, ih hes hrest, patchAll_cons, List.flatMap_cons, List.length_append,
      Nat.add_assoc]

/-! ### Applying the entries (R88, R90) -/

/-- The high part ORed to the low part makes the value. -/
theorem patchValue_parts {w x : Nat} (b : Nat) (hx : x < 2 ^ w) : patchValue w b (x % 2 ^ b) (x / 2 ^ b) = x := by
  have hor : x % 2 ^ b ||| x / 2 ^ b * 2 ^ b = x := by
    rw [← Nat.shiftLeft_eq, or_shiftLeft_of_lt (Nat.mod_lt x (Nat.two_pow_pos b)), Nat.mod_add_div']
  rw [patchValue, hor, Nat.mod_eq_of_lt hx]

/-- The slot after some values is patched to its value. -/
theorem patchAt_append {w x : Nat} (b : Nat) (hx : x < 2 ^ w) (done rest : List Nat) :
    patchAt w b (done ++ x % 2 ^ b :: rest) done.length (x / 2 ^ b) = done ++ x :: rest := by
  simp [patchAt, patchValue_parts b hx]

/-- The exceptions from slot `done.length` on turn the low parts from there on into the values. -/
theorem patchAll_exceptionsFrom {w : Nat} (b : Nat) (done : List Nat) {vals : List Nat} (hfits : ∀ x ∈ vals, x < 2 ^ w) :
    patchAll w b (exceptionsFrom b done.length vals) (done ++ lowParts vals b) = done ++ vals := by
  induction vals generalizing done with
  | nil => rfl
  | cons x xs ih =>
    obtain ⟨hx, hxs⟩ := List.forall_mem_cons.1 hfits
    have hrest : patchAll w b (exceptionsFrom b (done.length + 1) xs) (done ++ x :: lowParts xs b) = done ++ x :: xs := by
      simpa using ih (done ++ [x]) hxs
    rw [exceptionsFrom, lowParts, List.map_cons, ← lowParts]
    by_cases hover : 2 ^ b ≤ x
    · rw [if_pos hover, patchAll_cons, patchAt_append b hx, hrest]
    · rw [if_neg hover, Nat.mod_eq_of_lt (not_le.1 hover), hrest]

/-- The exception set restores the values from their low parts. -/
theorem patchAll_exceptions {vals : List Nat} {w : Nat} (b : Nat) (hfits : ∀ x ∈ vals, x < 2 ^ w) :
    patchAll w b (exceptions vals b) (lowParts vals b) = vals :=
  patchAll_exceptionsFrom b [] hfits

/-! ### The list of a block (R87, R90) -/

/-- A block has no more slots than a slot byte can name (R7, R86). -/
theorem bs_le_256 (v : Variant) : v.bs ≤ 256 := by
  unfold Variant.bs blockSize
  split <;> decide

/-- The high part of a `W`-bit value takes at most `HB` bytes (R86). -/
theorem high_lt {w x : Nat} (b : Nat) (hx : x < 2 ^ w) : x / 2 ^ b < 256 ^ highBytes w b := by
  have hbits : w ≤ b + 8 * highBytes w b := by unfold highBytes ceilDiv; omega
  refine Nat.div_lt_of_lt_mul ?_
  calc x < 2 ^ w := hx
    _ ≤ 2 ^ (b + 8 * highBytes w b) := Nat.pow_le_pow_right two_pos hbits
    _ = 2 ^ b * 256 ^ highBytes w b := by norm_num [pow_add, pow_mul]

theorem entryFits_of_mem_exceptions {vals : List Nat} {w b : Nat} (hfits : ∀ x ∈ vals, x < 2 ^ w)
    (hblock : vals.length ≤ 256) {e : Nat × Nat} (he : e ∈ exceptions vals b) : EntryFits w b vals.length e := by
  obtain ⟨hslot, -, hhigh⟩ := (mem_exceptions_iff vals b e.1 e.2).1 he
  refine ⟨hslot, hslot.trans_le hblock, ?_⟩
  rw [hhigh]
  exact high_lt b (getD_lt_two_pow hfits e.1)

theorem patchEncode_of_ne_nil {vals : List Nat} {b : Nat} (w : Nat) (h : exceptions vals b ≠ []) :
    patchEncode vals b w =
      leBytes 1 (exceptions vals b).length ++ (exceptions vals b).flatMap (patchEntry w b) := by
  rw [patchEncode, if_neg (mt List.isEmpty_iff.1 h)]

/-- The list that the encoder writes restores the values from their low parts, where the count fits its byte. -/
theorem decodeExceptions_patchEncode {buf : InBuf} {vals : List Nat} {w b : Nat} {cur : Cursor}
    (hfits : ∀ x ∈ vals, x < 2 ^ w) (hblock : vals.length ≤ 256) (hcount : (exceptions vals b).length < 256)
    (hexc : exceptions vals b ≠ []) (h : Holds buf cur.pos (patchEncode vals b w)) :
    decodeExceptions buf w b vals.length (lowParts vals b) cur =
      .ok vals { cur with pos := cur.pos + (patchEncode vals b w).length } := by
  rw [patchEncode_of_ne_nil w hexc] at h ⊢
  obtain ⟨hnx, hentries⟩ := h.append
  rw [leBytes_length] at hentries
  have happly := patchApply_entries (c := vals.length) (cur := { cur with pos := cur.pos + 1 })
    (fun e he => entryFits_of_mem_exceptions hfits hblock he) hentries (lowParts vals b)
  rw [decodeExceptions_eq, readControl_of_holds hnx (leBytes_length 1 _), Parsed.next,
    fromLE_leBytes_of_lt 1 _ hcount, happly, patchAll_exceptions b hfits, List.length_append, leBytes_length, Nat.add_assoc]

/-- The unpacked low parts are the low parts (R83). -/
theorem unpack_lowParts (v : Variant) (vals : List Nat) (b : Nat) :
    unpack (pack (lowParts vals b) b v.lanes) b v.lanes vals.length = lowParts vals b := by
  have hlow : ∀ x ∈ lowParts vals b, x < 2 ^ b :=
    List.forall_mem_map.2 fun x _ => Nat.mod_lt x (Nat.two_pow_pos b)
  simpa using unpackInvertsPack (lowParts vals b) b v.lanes (lanes_pos v) hlow

/-- Settles O55: the list's entries turn the low parts into the values slot by slot; with no entry they are the values. -/
theorem patchesRestoreTheValues : Obligations.PatchesRestoreTheValues := by
  intro v vals buf cur hfits hlen b unpacked
  have hblock : vals.length ≤ 256 := hlen.trans (bs_le_256 v)
  have hunpacked : unpacked = lowParts vals b := unpack_lowParts v vals b
  rw [hunpacked]
  refine ⟨fun hexc => ?_, fun hexc h => ?_⟩
  · have hall := patchAll_exceptions b hfits
    rwa [hexc, patchAll_nil] at hall
  · obtain ⟨-, -, -, -, hcount, -⟩ := exceptionSetOfABlock vals v.width hfits
    exact decodeExceptions_patchEncode hfits hblock ((hcount hblock).trans_lt (by decide)) hexc h

end Sys2Proof.Machine

/-! The block framer and its reader (44_framing.md): the reader gives back each field that the framer writes (R92, R98),
so it gives back a block (R100), block after block the stream (R101), and DEC the elements that ENC read (R102). -/

namespace Sys2Proof.Machine

/-! ### The header (R92, R98) -/

/-- The three bytes of a header (R92). -/
def Header.bytes (h : Header) : List Byte := leBytes 1 (h.b + 128 * h.exc.toNat) ++ leBytes 2 h.cnt

/-- The fields of a header fit: a width of 7 bits at most `W`, and a count of two bytes. -/
structure Header.FitsBytes (h : Header) (w : Nat) : Prop where
  width : h.b ≤ w
  width_lt : w < 128
  count : h.cnt < 2 ^ 16

@[simp] theorem Header.bytes_length (h : Header) : h.bytes.length = 3 := by simp [Header.bytes]

theorem headerOf_bytes {h : Header} {w : Nat} (hfits : h.FitsBytes w) : headerOf h.bytes = h := by
  obtain ⟨b, exc, cnt⟩ := h
  obtain ⟨hb, hw, hcnt⟩ := hfits
  dsimp only at hb hcnt
  have hflag : exc.toNat < 2 := exc.toNat_lt
  have hbyte0 : (b + 128 * exc.toNat) % 256 = b + 128 * exc.toNat := Nat.mod_eq_of_lt (by omega)
  have hexc : decide ((b + 128 * exc.toNat) / 128 = 1) = exc := by
    cases exc <;> simp <;> omega
  have hwidth : (b + 128 * exc.toNat) % 128 = b := by omega
  have hcount : cnt % 256 + 256 * (cnt / 256 % 256) = cnt := by omega
  simp [headerOf, Header.bytes, leBytes, hbyte0, hexc, hwidth, hcount]

/-- A header that the buffer holds is read, and passes the checks of R99 where it has the expected count. -/
theorem readHeader_of_holds {buf : InBuf} {cur : Cursor} {h : Header} {w : Nat} (hfits : h.FitsBytes w)
    (hholds : Holds buf cur.pos h.bytes) :
    readHeader buf w h.cnt cur = .ok h { cur with pos := cur.pos + 3 } := by
  obtain ⟨hbytes, hlimit, hport⟩ := hholds
  rw [Header.bytes_length] at hbytes hlimit hport
  rw [readHeader_of_portReads buf w h.cnt cur hport, hbytes, headerOf_bytes hfits]
  simp [hlimit.not_gt, hfits.width.not_gt]

/-! ### The parts of a block (R92, R93) -/

/-- The payload that the framer writes for a block (R93). -/
def blockPayload (v : Variant) (vals : List Nat) : List Byte :=
  pack (lowParts vals (selectB vals v.width)) (selectB vals v.width) v.lanes

/-- The exception list that the framer writes for a block, empty where no value is an exception (R93). -/
def blockList (v : Variant) (vals : List Nat) : List Byte := patchEncode vals (selectB vals v.width) v.width

/-- The header that the framer writes for a block (R92, R93). -/
def blockHeader (v : Variant) (vals : List Nat) : Header :=
  { b := selectB vals v.width, exc := !(blockList v vals).isEmpty, cnt := vals.length }

theorem encodeBlock_eq (v : Variant) (vals : List Nat) :
    encodeBlock v vals = (blockHeader v vals).bytes ++ blockPayload v vals ++ blockList v vals := by
  have hflag : (if (blockList v vals).isEmpty then 0 else 1) = (blockHeader v vals).exc.toNat := by
    rw [blockHeader]
    cases (blockList v vals).isEmpty <;> rfl
  rw [Header.bytes, ← hflag]
  rfl

theorem blockPayload_length (v : Variant) (vals : List Nat) :
    (blockPayload v vals).length = payloadSize vals.length v.lanes (blockHeader v vals).b := by
  rw [blockPayload, pack_length, lowParts_length]
  rfl

theorem blockHeader_exc_iff (v : Variant) (vals : List Nat) :
    (blockHeader v vals).exc = true ↔ exceptions vals (blockHeader v vals).b ≠ [] := by
  simp [blockHeader, blockList, patchEncode, leBytes]

theorem blockList_eq_nil {v : Variant} {vals : List Nat} (h : ¬(blockHeader v vals).exc = true) :
    blockList v vals = [] := by
  simpa [blockHeader] using h

theorem width_le_64 (v : Variant) : v.width ≤ 64 := by
  unfold Variant.width elemWidth
  split <;> decide

theorem blockHeader_fits {v : Variant} {vals : List Nat} (hfits : Fits v vals) (hlen : vals.length ≤ v.bs) :
    (blockHeader v vals).FitsBytes v.width where
  width := (selectB_spec hfits).1
  width_lt := (width_le_64 v).trans_lt (by decide)
  count := (hlen.trans (bs_le_256 v)).trans_lt (by decide)

/-! ### Reading a block (R100) -/

section Block

variable {v : Variant} {vals : List Nat} {buf : InBuf} {cur : Cursor}

/-- A block that the buffer holds is held part by part. -/
theorem holds_encodeBlock {off : Nat} (h : Holds buf off (encodeBlock v vals)) :
    Holds buf off (blockHeader v vals).bytes ∧ Holds buf (off + 3) (blockPayload v vals) ∧
      Holds buf (off + 3 + (blockPayload v vals).length) (blockList v vals) := by
  rw [encodeBlock_eq, List.append_assoc] at h
  obtain ⟨hheader, hrest⟩ := h.append
  obtain ⟨hpayload, hlist⟩ := hrest.append
  exact ⟨hheader, hpayload, hlist⟩

theorem readHeader_blockHeader (hfits : Fits v vals) (hlen : vals.length ≤ v.bs)
    (h : Holds buf cur.pos (blockHeader v vals).bytes) :
    readHeader buf v.width vals.length cur = .ok (blockHeader v vals) { cur with pos := cur.pos + 3 } :=
  readHeader_of_holds (blockHeader_fits hfits hlen) h

theorem readData_blockPayload (h : Holds buf cur.pos (blockPayload v vals)) :
    readData buf (payloadSize vals.length v.lanes (blockHeader v vals).b) cur =
      .ok (blockPayload v vals) { cur with pos := cur.pos + (blockPayload v vals).length } := by
  rw [← blockPayload_length]
  exact readData_of_holds h rfl

end Block

/-- A block whose header and payload are read: the exception list is read where the header says that there is one. -/
theorem decodeBlock_of_fields {v : Variant} {buf : InBuf} {c : Nat} {cur cur1 cur2 : Cursor} {hd : Header}
    {payload : List Byte} (hread : readHeader buf v.width c cur = .ok hd cur1)
    (hdata : readData buf (payloadSize c v.lanes hd.b) cur1 = .ok payload cur2) :
    decodeBlock v buf c cur =
      if hd.exc then
        (decodeExceptions buf v.width hd.b c (unpack payload hd.b v.lanes c) cur2).next fun vals cur3 =>
          .ok (vals, unpackScratch payload hd.b v.lanes c) cur3
      else .ok (unpack payload hd.b v.lanes c, unpackScratch payload hd.b v.lanes c) cur2 := by
  rw [decodeBlock_eq, hread, Parsed.next, hdata]
  rfl

/-- Settles O56: header and payload are read back, and the unpacked low parts are the values, at once or with the
exception list applied (R90). -/
theorem decodedBlockIsTheEncodedBlock : Obligations.DecodedBlockIsTheEncodedBlock := by
  intro v vals buf cur hfits hlen hholds
  obtain ⟨hheader, hpayload, hlist⟩ := holds_encodeBlock hholds
  have hread := readHeader_blockHeader hfits hlen hheader
  have hdata := readData_blockPayload (cur := { cur with pos := cur.pos + 3 }) hpayload
  obtain ⟨hnone, hsome⟩ := patchesRestoreTheValues v vals buf
    { cur with pos := cur.pos + 3 + (blockPayload v vals).length } hfits hlen
  refine ⟨unpackScratch (blockPayload v vals) (blockHeader v vals).b v.lanes vals.length, ?_⟩
  rw [decodeBlock_of_fields hread hdata, encodeBlock_eq, List.length_append, List.length_append, Header.bytes_length,
    ← Nat.add_assoc, ← Nat.add_assoc]
  by_cases hexc : (blockHeader v vals).exc = true
  · have hrestored : decodeExceptions buf v.width (blockHeader v vals).b vals.length
        (unpack (blockPayload v vals) (blockHeader v vals).b v.lanes vals.length)
        { cur with pos := cur.pos + 3 + (blockPayload v vals).length } =
          .ok vals { cur with pos := cur.pos + 3 + (blockPayload v vals).length + (blockList v vals).length } :=
      hsome ((blockHeader_exc_iff v vals).1 hexc) hlist
    rw [if_pos hexc, hrestored]
    rfl
  · have hvals : unpack (blockPayload v vals) (blockHeader v vals).b v.lanes vals.length = vals :=
      hnone (not_not.1 (mt (blockHeader_exc_iff v vals).2 hexc))
    rw [if_neg hexc, hvals, blockList_eq_nil hexc]
    rfl

/-! ### The blocks of a stream (R91, R101) -/

section Stream

variable {v : Variant} {buf : InBuf} {n : Nat}

/-- A block of a decode that the buffer holds gives its values, less the deltas. -/
theorem decodeStep_of_holds {vals : List Nat} {p : Progress} (hfits : Fits v vals)
    (hlen : vals.length = blockLen n v.bs p.block) (h : Holds buf p.offset (encodeBlock v vals)) :
    ∃ q, decodeStep v buf n p false = .done (undeltaBlock v p.block p.base vals) q false ∧
      q.block = p.block + 1 ∧ q.base = (undeltaBlock v p.block p.base vals).getLastD p.base ∧
      q.offset = p.offset + (encodeBlock v vals).length := by
  obtain ⟨scratch, hblock⟩ := decodedBlockIsTheEncodedBlock v vals buf { pos := p.offset, memErr := false } hfits
    (hlen.trans_le (Nat.min_le_left _ _)) h
  rw [decodeStep_eq, ← hlen, hblock]
  exact ⟨_, rfl, rfl, rfl, rfl⟩

/-- The blocks that a buffer holds of slot values `ds`, those left of `n`, are undone one by one. -/
theorem decodeBlocks_of_holds {k : Nat} {ds : List Nat} {p : Progress} (hfits : Fits v ds)
    (hlen : ds.length = n - p.block * v.bs) (h : Holds buf p.offset ((cut v.bs k ds).flatMap (encodeBlock v))) :
    ∃ q, decodeBlocks v buf n k p false = .done (undeltaBlocks v p.block p.base (cut v.bs k ds)) q false ∧
      q.offset = p.offset + ((cut v.bs k ds).flatMap (encodeBlock v)).length := by
  induction k generalizing ds p with
  | zero => exact ⟨p, rfl, rfl⟩
  | succ k ih =>
    rw [cut, List.flatMap_cons] at h ⊢
    obtain ⟨hfirst, hrest⟩ := h.append
    have htake : (ds.take v.bs).length = blockLen n v.bs p.block := by rw [List.length_take, hlen, blockLen]
    obtain ⟨q, hstep, hblock, hbase, hoffset⟩ :=
      decodeStep_of_holds (fun x hx => hfits x (List.mem_of_mem_take hx)) htake hfirst
    have hdrop : (ds.drop v.bs).length = n - q.block * v.bs := by
      rw [List.length_drop, hlen, hblock, Nat.succ_mul, Nat.sub_sub]
    obtain ⟨r, hblocks, hend⟩ :=
      ih (fun x hx => hfits x (List.mem_of_mem_drop hx)) hdrop (by rwa [hoffset])
    rw [hoffset, Nat.add_assoc, ← List.length_append] at hend
    rw [hblock, hbase] at hblocks
    refine ⟨r, ?_, hend⟩
    rw [decodeBlocks_succ, hstep, StreamOut.next, hblocks]
    rfl

end Stream

/-- Settles O57: after the baseline the blocks are undone one by one, which gives the sequence back (R64). -/
theorem streamRoundTrip : Obligations.StreamRoundTrip := by
  intro v xs buf hfits hholds
  cases xs with
  | nil => exact ⟨.start, rfl, rfl⟩
  | cons x xs =>
    obtain ⟨hbase, hblocks⟩ := hholds.append
    rw [leBytes_length] at hblocks
    have hread := readData_of_holds (cur := { pos := 0, memErr := false }) hbase (leBytes_length v.size x)
    have hx : fromLE (leBytes v.size x) = x :=
      fromLE_leBytes_of_lt _ _ ((hfits x List.mem_cons_self).trans_eq (size_pow_eq v).symm)
    have hcount : (deltas v (x :: xs)).length = (x :: xs).length - 0 * v.bs := by
      rw [deltas_length, Nat.zero_mul, Nat.sub_zero]
    obtain ⟨q, hdone, hoffset⟩ := decodeBlocks_of_holds (n := (x :: xs).length) (p := .afterBase (0 + v.size) x)
      (deltas_fits v (x :: xs)) hcount hblocks
    refine ⟨q, ?_, ?_⟩
    · rw [decodeStream_eq, if_neg (List.length_pos_iff.2 (List.cons_ne_nil x xs)).ne', hread, Parsed.decode, hx]
      exact hdone.trans (congrArg (StreamOut.done · q false) (deltaLayerIsLossless v (x :: xs) hfits))
    · rw [hoffset, stream_length (List.cons_ne_nil x xs)]
      simp [Progress.afterBase]

/-! ### ENC, and DEC after it (R94, R96, R102) -/

/-- Settles O59: the bound holds for any sequence, also one wider than `W` bits. -/
theorem streamFitsTheWorstCaseBound : Obligations.StreamFitsTheWorstCaseBound :=
  fun v xs _ => stream_length_le_wcb v xs

/-- The machine once an encode has written its stream and completed (R105). -/
def encoded (v : Variant) (s : State) : State :=
  ({ s with mem := s.mem.write s.curChan.latch.dst.toNat (encOutput v s) } : State).complete
    (BitVec.ofNat 64 (encOutput v s).length) 0

/-- All that such a completion does: the result is the stream's length, and memory is as before but for the stream. -/
theorem encoded_spec (v : Variant) {s : State} (hcur : s.cur < s.chans.length) :
    CompletedWith s (encoded v s) 0 ∧ (encoded v s).curChan.result = BitVec.ofNat 64 (encOutput v s).length ∧
      (encoded v s).mem = s.mem.write s.curChan.latch.dst.toNat (encOutput v s) :=
  complete_write_spec s _ _ _ hcur

/-- An encode whose conditions hold and whose accesses are all answered completes. -/
theorem exec_enc_of_answered {v : Variant} {s : State} (hready : EncReady v s) (hunraced : s.curChan.raced = false)
    (hreads : portReads s.port (encIn v s.curChan.latch) = true)
    (hwrites : portWrites s.port { base := s.curChan.latch.dst.toNat, size := (encOutput v s).length } = true) :
    exec (.enc v) s = .next (encoded v s) := by
  rw [exec_enc_of_ready v s hready, hunraced, if_neg Bool.false_ne_true]
  rcases encodeRun_cases v s with ⟨-, -, ht⟩ | ⟨herr, -⟩
  · exact congrArg _ ht
  · simp [hreads, hwrites] at herr

/-- Settles O31: such an encode writes its stream, and nothing else. -/
theorem encodeCompletes : Obligations.EncodeCompletes := by
  intro v s hready hunraced hwf hreads hwrites
  obtain ⟨hcompleted, hresult, hmem⟩ := encoded_spec v hready.current
  have hexec := exec_enc_of_answered hready hunraced hreads hwrites
  refine ⟨encoded v s, hexec, hcompleted, rfl, hresult, fun i hi => ?_, ?_⟩ <;> rw [hmem]
  · exact get_write_inside s.mem _ i (encOutput v s) hwf hi
  · exact write_sameOutside s.mem { base := s.curChan.latch.dst.toNat, size := (encOutput v s).length } _ le_rfl

/-- A decode whose conditions hold, whose stream passes the reader and whose writes are answered completes (R106). -/
theorem exec_dec_of_done {v : Variant} {s : State} {xs : List Nat} {p : Progress} (hready : DecReady v s)
    (hunraced : s.curChan.raced = false) (hdone : decOutcome v s = .done xs p false)
    (hwrites : portWrites s.port (decOut v s.curChan.latch) = true) :
    exec (.dec v) s = .next
      (({ s with mem := s.mem.write s.curChan.latch.dst.toNat (elemBytes v.size xs) } : State).complete
        (BitVec.ofNat 64 p.offset) 0) := by
  rw [decOutcome] at hdone
  rw [exec_dec_of_ready v s hready, hunraced, decodeRun, hdone]
  simp [hwrites]

/-- An element read from memory has `W` bits (R13). -/
theorem encInput_fits (v : Variant) (s : State) : Fits v (encInput v s) :=
  List.forall_mem_map.2 fun _ _ => baseline_lt v _ (read_length ..)

/-- The input buffer of a decode holds the stream that an encode left there. -/
theorem holds_stream {s u : State} {bs : List Byte} {a : Nat} (hwf : s.mem.wf = true)
    (hmem : u.mem = s.mem.write a bs) (hsrc : u.curChan.latch.src.toNat = a)
    (hcap : bs.length ≤ u.curChan.latch.srcCap.toNat)
    (hreads : portReads u.port { base := u.curChan.latch.src.toNat, size := bs.length } = true) :
    Holds (u.inBuf u.curChan.latch) 0 bs where
  bytes := by
    subst hsrc
    exact (congrArg (Memory.read · _ _) hmem).trans (read_write s.mem _ bs hwf)
  limit := (Nat.zero_add _).trans_le hcap
  port := hreads

/-- Settles O58: the decode's buffer holds the stream of the elements that the encode read, so the reader gives them
back (R91, R101) and the decode writes them. -/
theorem decodeRestoresWhatEncodeRead : Obligations.DecodeRestoresWhatEncodeRead := by
  intro v s t u hready hunraced hwf hreads hwrites hexec hready' hunraced' hmem hsrc hcount hcap hreads' hwrites'
  obtain rfl : encoded v s = t := by
    rw [exec_enc_of_answered hready hunraced hreads hwrites] at hexec
    exact Host.Outcome.next.inj hexec
  obtain ⟨-, hresult, hwritten⟩ := encoded_spec v hready.current
  have hcells := hmem.trans hwritten
  have hholds := holds_stream hwf hcells (congrArg BitVec.toNat hsrc) hcap hreads'
  have hlen : (encInput v s).length = s.curChan.latch.count := elemsAt_length ..
  obtain ⟨p, hdone, hoffset⟩ := streamRoundTrip v (encInput v s) _ (encInput_fits v s) hholds
  rw [hlen, ← hcount] at hdone
  obtain ⟨hcompleted, hresult', hmem'⟩ := complete_write_spec u u.curChan.latch.dst.toNat
    (elemBytes v.size (encInput v s)) (BitVec.ofNat 64 p.offset) hready'.current
  refine ⟨_, exec_dec_of_done hready' hunraced' hdone hwrites', hcompleted, ?_, fun g hg => ?_⟩
  · rw [hresult', hoffset, hresult, encOutput]
  · have hwf' : u.mem.wf = true := hcells ▸ write_wf _ _ _ hwf
    rw [hmem', elemAt_write _ _ _ _ g hwf' (hg.trans_eq hlen.symm)
      fun x hx => (encInput_fits v s x hx).trans_eq (size_pow_eq v).symm, encInput, elemsAt]
    simp [hg]

end Sys2Proof.Machine

/-! The commands (45_commands.md): a NOP changes nothing (R104), a BOUND and a decode complete (R106, R107), the
pre-checks end a command in their order (R103), and what a command answers is determined by its operands, the
parameters and the bytes of its input (R109). -/

namespace Sys2Proof.Machine

/-! ### NOP and BOUND (R104, R107) -/

/-- Settles O29: NOP's arm of `exec` answers the state itself (R104). -/
theorem nopCompletes : Obligations.NopCompletes := fun n => exec_eq_kind (.nop n)

/-- A host write of a word with `OP = 0` to `CMD` runs a NOP, which leaves all as it is but the model's own `cur` (R104,
R22). -/
theorem writeCmd_of_op_zero (ch : Nat) {w : Word} (s : State) (h : opField w = 0) :
    writeCmd ch w s = .next (s.select ch) := by
  rw [writeCmd, decodeCmd_of_op_zero w h]
  exact nopCompletes _ _

/-- Settles O20: the write runs a NOP, on an idle and on a busy channel alike. -/
theorem nopWriteChangesNothing : Obligations.NopWriteChangesNothing := by
  intro s ch w rest hp hch hop hin
  rw [step_cons s _ rest hin, perform_wrReg_cmd { s with inputs := rest } hp w hch,
    writeCmd_of_op_zero ch _ ((opField_eq_zero_iff w).2 hop)]
  rfl

/-- `WCB(N)` with the constants of R7 written out (R95). -/
theorem wcb_eq (wide w64 : Bool) (n : Nat) :
    wcb wide w64 n =
      (let lanes := if wide then 8 else 4
       let size := if w64 then 8 else 4
       let bs := if wide then 256 else 128
       if n = 0 then 0 else (n + lanes) * size + 3 * ((n + bs - 1) / bs) + 4 * lanes) := by
  cases w64 <;> rfl

/-- The worst-case bound of any `LEN` fits `RESULT` (R24, R95). -/
theorem wcb_lt (wide w64 : Bool) {n : Nat} (h : n < 2 ^ 32) : wcb wide w64 n < 2 ^ 64 := by
  rw [wcb_eq]
  cases wide <;> cases w64 <;> simp only [Bool.false_eq_true, if_true, if_false] <;> split <;> omega

/-- Settles O30: BOUND only completes, and its result fits 64 bits. -/
theorem boundCompletes : Obligations.BoundCompletes := by
  intro wide w64 attrs s hcur
  obtain ⟨hcompleted, hresult, hmem⟩ :=
    complete_spec s (BitVec.ofNat 64 (wcb wide w64 s.curChan.latch.count)) 0 hcur
  refine ⟨_, exec_bound wide w64 attrs s, hcompleted, hmem, rfl, ?_⟩
  have hfits : wcb wide w64 s.curChan.latch.count < 2 ^ 64 := wcb_lt wide w64 s.curChan.latch.len.isLt
  rw [hresult, BitVec.toNat_ofNat, Nat.mod_eq_of_lt hfits]
  exact wcb_eq wide w64 _

/-! ### The pre-checks (R103) -/

/-- What holds of the code of whichever pre-check fails holds of the codes in the order of R103: the first check that
fails gives its code. -/
theorem precheck_in_order {p : Params} {wide : Bool} {rin rout : Range} {need cap : Nat} {ends : BitVec 4 → Prop}
    (h : ∀ e, precheck p wide rin rout need cap = some e → ends e.code) :
    if wide = true ∧ p.hasWide = false then ends 2
    else if ¬(rin.valid p.addrWidth = true ∧ rout.valid p.addrWidth = true) then ends 3
    else if cap < need then ends 4
    else rin.meets rout = true → ends 5 := by
  have fails (e : ErrCode) := fun hfails => h e ((precheck_eq_some p wide rin rout need cap e).2 hfails)
  split
  case isTrue hcap => exact fails .cap (.inl ⟨rfl, hcap⟩)
  case isFalse hcap =>
    split
    case isTrue hrange => exact fails .range (.inr ⟨hcap, .inl ⟨rfl, hrange⟩⟩)
    case isFalse hrange =>
      obtain ⟨hin, hout⟩ := not_not.1 hrange
      split
      case isTrue hsmall => exact fails .dstCap (.inr ⟨hcap, .inr ⟨hin, hout, .inl ⟨rfl, hsmall⟩⟩⟩)
      case isFalse hsmall =>
        exact fun hmeets => fails .overlap (.inr ⟨hcap, .inr ⟨hin, hout, .inr ⟨hsmall, rfl, hmeets⟩⟩⟩)

/-- An encode that fails a pre-check ends with its code before any memory access (R103, R114). -/
theorem endsClean_enc {v : Variant} {s : State} (hcur : s.cur < s.chans.length) {e : ErrCode}
    (h : precheckEnc s.params v s.curChan.latch = some e) : EndsClean (.enc v) s e.code :=
  ⟨s.failClean e, by rw [exec_enc, runEnc]; simp only [h], failClean_spec s e hcur⟩

/-- A decode that fails a pre-check ends with its code before any memory access (R103, R114). -/
theorem endsClean_dec {v : Variant} {s : State} (hcur : s.cur < s.chans.length) {e : ErrCode}
    (h : precheckDec s.params v s.curChan.latch = some e) : EndsClean (.dec v) s e.code :=
  ⟨s.failClean e, by rw [exec_dec, runDec]; simp only [h], failClean_spec s e hcur⟩

/-- Settles O32: the first pre-check that fails ends the encode. -/
theorem encodePreChecksInOrder : Obligations.EncodePreChecksInOrder :=
  fun v s hcur => precheck_in_order (ends := EndsClean (.enc v) s) fun _ => endsClean_enc hcur

/-- Settles O36: the first pre-check that fails ends the decode. -/
theorem decodePreChecksInOrder : Obligations.DecodePreChecksInOrder :=
  fun v s hcur => precheck_in_order (ends := EndsClean (.dec v) s) fun _ => endsClean_dec hcur

/-! ### DEC (R106) -/

/-- Settles O35: the elements that pass the reader are `N` values of `W` bits, and the decode writes just them. -/
theorem decodeCompletes : Obligations.DecodeCompletes := by
  intro v s xs p hready hunraced hwf hdone hwrites
  obtain ⟨hcount, hfits⟩ := decodeStream_done _ _ _ _ _ _ hdone
  obtain ⟨hcompleted, hresult, hmem⟩ := complete_write_spec s s.curChan.latch.dst.toNat (elemBytes v.size xs)
    (BitVec.ofNat 64 p.offset) hready.current
  refine ⟨hcount, hfits, _, exec_dec_of_done hready hunraced hdone hwrites, hcompleted, rfl, hresult,
    fun g hg => ?_, ?_⟩
  · rw [hmem]
    exact elemAt_write s.mem _ v.size xs g hwf hg fun x hx => (hfits x hx).trans_eq (size_pow_eq v).symm
  · rw [hmem]
    exact write_sameOutside s.mem (decOut v s.curChan.latch) _ (elemBytes_length_of_done hdone).le

/-! ### Determinism (R109) -/

/-- What R109 compares: two machines with the same parameters, platform and latched operands, whose running commands
were not raced. Memory, and everything else a command does not look at, may differ. -/
structure SameOperands (s1 s2 : State) : Prop where
  current1 : s1.cur < s1.chans.length
  current2 : s2.cur < s2.chans.length
  wf1 : s1.mem.wf = true
  wf2 : s2.mem.wf = true
  params : s1.params = s2.params
  port : s1.port = s2.port
  latch : s1.curChan.latch = s2.curChan.latch
  unraced1 : s1.curChan.raced = false
  unraced2 : s2.curChan.raced = false

/-- Two memories hold the same bytes in a range. -/
def SameInside (m n : Memory) (r : Range) : Prop := ∀ a, r.has a = true → m.get a = n.get a

/-- Two machines in which the running command has ended alike: the same `ERR`, the same `RESULT`, and where it succeeded
the same bytes in a range (R109). -/
structure EndAlike (t1 t2 : State) (r : Range) : Prop where
  err : t1.curChan.err = t2.curChan.err
  result : t1.curChan.result = t2.curChan.result
  bytes : t1.curChan.err = 0 → SameInside t1.mem t2.mem r

/-- The bytes that a successful encode of the running channel writes (R94, R105). -/
def encWritten (v : Variant) (s : State) : Range :=
  { base := s.curChan.latch.dst.toNat, size := (encOutput v s).length }

/-- No error has the code of success (R110). -/
theorem ErrCode.code_ne_zero (e : ErrCode) : e.code ≠ 0 := by cases e <;> decide

theorem has_iff (r : Range) (a : Nat) : r.has a = true ↔ r.base ≤ a ∧ a < r.base + r.size := decide_eq_true_iff

/-- Two memories in which the same bytes were written hold the same bytes there. -/
theorem write_sameInside {m n : Memory} {r : Range} {bs : List Byte} (hm : m.wf = true) (hn : n.wf = true)
    (hsize : bs.length = r.size) : SameInside (m.write r.base bs) (n.write r.base bs) r := by
  intro a ha
  rw [has_iff, ← hsize] at ha
  obtain ⟨i, rfl⟩ := Nat.exists_eq_add_of_le ha.1
  have hi : i < bs.length := by omega
  rw [get_write_inside m r.base i bs hm hi, get_write_inside n r.base i bs hn hi]

/-- The elements that two memories hold in a range where they have the same bytes are the same (R13). -/
theorem elemsAt_congr {m n : Memory} {a size count : Nat}
    (h : SameInside m n { base := a, size := count * size }) :
    elemsAt m a size 0 count = elemsAt n a size 0 count := by
  refine List.map_congr_left fun g hg => ?_
  have hend : (g + 1) * size ≤ count * size := Nat.mul_le_mul_right size (List.mem_range.1 hg)
  rw [Nat.succ_mul] at hend
  rw [Nat.zero_add, elemAt, elemAt, read_congr m n _ _ fun x hlo hhi => h x ((has_iff _ x).2 ⟨?_, ?_⟩)]
  · exact (Nat.le_add_right a _).trans hlo
  · change x < a + count * size
    omega

/-! An unraced command that answers a next state ended at its first failing pre-check, or executed (R103). -/

theorem exec_enc_unraced {v : Variant} {s t : State} (hunraced : s.curChan.raced = false)
    (h : exec (.enc v) s = .next t) :
    t = (precheckEnc s.params v s.curChan.latch).elim (encodeRun v s.curChan.latch s) s.failClean := by
  rw [exec_enc] at h
  rcases runEnc_cases v s t h with ⟨e, he, ht⟩ | ⟨hpre, -, -, ⟨hraced, -⟩ | ⟨-, ht⟩⟩
  · rw [he, ht, Option.elim_some]
  · exact absurd (hunraced.symm.trans hraced) (by decide)
  · rw [hpre, ht, Option.elim_none]

theorem exec_dec_unraced {v : Variant} {s t : State} (hunraced : s.curChan.raced = false)
    (h : exec (.dec v) s = .next t) :
    t = (precheckDec s.params v s.curChan.latch).elim (decodeRun v s.curChan.latch s) s.failClean := by
  rw [exec_dec] at h
  rcases runDec_cases v s t h with ⟨e, he, ht⟩ | ⟨hpre, -, -, ⟨hraced, -⟩ | ⟨-, ht⟩⟩
  · rw [he, ht, Option.elim_some]
  · exact absurd (hunraced.symm.trans hraced) (by decide)
  · rw [hpre, ht, Option.elim_none]

/-- The execution of a decode that does not end with `ERR_MEM` succeeds, or reports a malformed stream (R106, R110). -/
theorem decodeRun_without_errMem {v : Variant} {s : State} (hcur : s.cur < s.chans.length)
    (h : (decodeRun v s.curChan.latch s).curChan.err ≠ 6) :
    (∃ xs p, decOutcome v s = .done xs p false ∧
      decodeRun v s.curChan.latch s =
        ({ s with mem := s.mem.write s.curChan.latch.dst.toNat (elemBytes v.size xs) } : State).complete
          (BitVec.ofNat 64 p.offset) 0) ∨
    ∃ p m, decOutcome v s = .malformed p m ∧ (decodeRun v s.curChan.latch s).curChan.err = 7 := by
  rcases decodeRun_cases v s with ⟨xs, p, hdone, -, ht⟩ | ⟨e, he, ht⟩
  · exact .inl ⟨xs, p, hdone, ht⟩
  · have herr := (failDirty_spec s e (decOut v s.curChan.latch) hcur).1.err
    rw [← ht] at herr
    rcases he with rfl | ⟨rfl, p, m, hmalformed⟩
    · exact absurd herr h
    · exact .inr ⟨p, m, hmalformed, herr⟩

section Compared

variable {v : Variant} {s1 s2 t1 t2 : State}

/-- Two commands that the same pre-check ends, end alike. -/
theorem SameOperands.failClean_endAlike (h : SameOperands s1 s2) (e : ErrCode) (r : Range) :
    EndAlike (s1.failClean e) (s2.failClean e) r := by
  obtain ⟨hend1, hresult1, -⟩ := failClean_spec s1 e h.current1
  obtain ⟨hend2, hresult2, -⟩ := failClean_spec s2 e h.current2
  exact ⟨hend1.err.trans hend2.err.symm, hresult1.trans hresult2.symm,
    fun hzero => absurd (hend1.err.symm.trans hzero) e.code_ne_zero⟩

/-- Two commands that write the same bytes and succeed with the same result, end alike. -/
theorem SameOperands.complete_write_endAlike (h : SameOperands s1 s2) (result : DWord) {r : Range} {bs : List Byte}
    (hsize : bs.length = r.size) :
    EndAlike (({ s1 with mem := s1.mem.write r.base bs } : State).complete result 0)
      (({ s2 with mem := s2.mem.write r.base bs } : State).complete result 0) r := by
  obtain ⟨hend1, hresult1, hmem1⟩ := complete_write_spec s1 r.base bs result h.current1
  obtain ⟨hend2, hresult2, hmem2⟩ := complete_write_spec s2 r.base bs result h.current2
  refine ⟨hend1.err.trans hend2.err.symm, hresult1.trans hresult2.symm, fun _ => ?_⟩
  rw [hmem1, hmem2]
  exact write_sameInside h.wf1 h.wf2 hsize

/-- The stream is made of the input's bytes alone (R105). -/
theorem SameOperands.encOutput_eq (h : SameOperands s1 s2)
    (hin : SameInside s1.mem s2.mem (encIn v s1.curChan.latch)) :
    encOutput v s2 = encOutput v s1 := by
  rw [encOutput, encOutput, encInput, encInput, ← h.latch]
  exact congrArg (stream v) (elemsAt_congr hin).symm

/-- The reader looks at the input's bytes alone (R39, R97). -/
theorem SameOperands.decOutcome_eq (h : SameOperands s1 s2)
    (hin : SameInside s1.mem s2.mem (decIn s1.curChan.latch)) :
    decOutcome v s2 = decOutcome v s1 := by
  have hbuf : s2.inBuf s2.curChan.latch = (s1.inBuf s1.curChan.latch).withMem s2.mem := by
    simp only [State.inBuf, InBuf.withMem, h.latch, h.port]
  have hlocal := decodeStream_local (buf := s1.inBuf s1.curChan.latch) (m := s2.mem) v s1.curChan.latch.count
  rw [decOutcome, decOutcome, hbuf, ← h.latch]
  refine hlocal.same fun a hlo hhi => (hin a ((has_iff _ a).2 ⟨hlo, hhi.trans_le ?_⟩)).symm
  exact Nat.add_le_add_left hlocal.limit _

/-- Two encodes of the same input execute alike, unless they meet a bus error (R105, R109). -/
theorem SameOperands.encodeRun_endAlike (h : SameOperands s1 s2)
    (hin : SameInside s1.mem s2.mem (encIn v s1.curChan.latch))
    (hmem : (encodeRun v s1.curChan.latch s1).curChan.err ≠ 6) :
    EndAlike (encodeRun v s1.curChan.latch s1) (encodeRun v s2.curChan.latch s2) (encWritten v s1) := by
  have hcases1 := encodeRun_cases v s1
  have hcases2 := encodeRun_cases v s2
  rw [h.encOutput_eq hin, ← h.latch] at hcases2
  rcases hcases1 with ⟨hreads, hwrites, ht1⟩ | ⟨-, ht1⟩
  · rcases hcases2 with ⟨-, -, ht2⟩ | ⟨hfails, -⟩
    · rw [← h.latch, ht1, ht2]
      exact h.complete_write_endAlike _ (r := encWritten v s1) rfl
    · simp [← h.port, hreads, hwrites] at hfails
  · rw [ht1] at hmem
    exact absurd (failDirty_spec s1 _ _ h.current1).1.err hmem

/-- Two decodes of the same input execute alike, unless they meet a bus error, or the stream is malformed and both say
so (R106, R109, R114). -/
theorem SameOperands.decodeRun_endAlike (h : SameOperands s1 s2)
    (hin : SameInside s1.mem s2.mem (decIn s1.curChan.latch))
    (hmem1 : (decodeRun v s1.curChan.latch s1).curChan.err ≠ 6)
    (hmem2 : (decodeRun v s2.curChan.latch s2).curChan.err ≠ 6) :
    EndAlike (decodeRun v s1.curChan.latch s1) (decodeRun v s2.curChan.latch s2) (decOut v s1.curChan.latch) ∨
      (decodeRun v s1.curChan.latch s1).curChan.err = 7 ∧ (decodeRun v s2.curChan.latch s2).curChan.err = 7 := by
  have hsame := h.decOutcome_eq (v := v) hin
  rcases decodeRun_without_errMem h.current1 hmem1 with ⟨xs, p, hdone, ht1⟩ | ⟨p, m, hmalformed, herr1⟩
  · rcases decodeRun_without_errMem h.current2 hmem2 with ⟨ys, q, hdone', ht2⟩ | ⟨q, k, hmalformed', -⟩
    · rw [hsame, hdone] at hdone'
      obtain ⟨rfl, rfl, -⟩ := StreamOut.done.inj hdone'
      refine .inl ?_
      rw [ht1, ht2, ← h.latch]
      exact h.complete_write_endAlike _ (r := decOut v s1.curChan.latch) (elemBytes_length_of_done hdone)
    · rw [hsame, hdone] at hmalformed'
      exact StreamOut.noConfusion hmalformed'
  · rcases decodeRun_without_errMem h.current2 hmem2 with ⟨ys, q, hdone', -⟩ | ⟨-, -, -, herr2⟩
    · rw [hsame, hmalformed] at hdone'
      exact StreamOut.noConfusion hdone'
    · exact .inr ⟨herr1, herr2⟩

/-- Two encodes of the same input end alike, unless they meet a bus error (R109). -/
theorem SameOperands.exec_enc_endAlike (h : SameOperands s1 s2)
    (hin : SameInside s1.mem s2.mem (encIn v s1.curChan.latch)) (h1 : exec (.enc v) s1 = .next t1)
    (h2 : exec (.enc v) s2 = .next t2) (hmem : t1.curChan.err ≠ 6) :
    EndAlike t1 t2 (encWritten v s1) := by
  obtain rfl := exec_enc_unraced h.unraced1 h1
  obtain rfl := exec_enc_unraced h.unraced2 h2
  rw [← h.params, ← h.latch]
  cases hpre : precheckEnc s1.params v s1.curChan.latch with
  | some e => exact h.failClean_endAlike e _
  | none =>
    rw [hpre] at hmem
    exact h.latch ▸ h.encodeRun_endAlike hin hmem

/-- Two decodes of the same input end alike or both report a malformed stream, unless they meet a bus error (R109). -/
theorem SameOperands.exec_dec_endAlike (h : SameOperands s1 s2)
    (hin : SameInside s1.mem s2.mem (decIn s1.curChan.latch))
    (h1 : exec (.dec v) s1 = .next t1) (h2 : exec (.dec v) s2 = .next t2) (hmem1 : t1.curChan.err ≠ 6)
    (hmem2 : t2.curChan.err ≠ 6) :
    EndAlike t1 t2 (decOut v s1.curChan.latch) ∨ t1.curChan.err = 7 ∧ t2.curChan.err = 7 := by
  obtain rfl := exec_dec_unraced h.unraced1 h1
  obtain rfl := exec_dec_unraced h.unraced2 h2
  rw [← h.params, ← h.latch] at hmem2 ⊢
  cases hpre : precheckDec s1.params v s1.curChan.latch with
  | some e => exact .inl (h.failClean_endAlike e _)
  | none =>
    rw [hpre] at hmem1 hmem2
    rw [Option.elim_none, h.latch] at hmem2
    exact h.latch ▸ h.decodeRun_endAlike hin hmem1 hmem2

end Compared

/-- Settles O45: two such commands end alike, or are decodes that both report a malformed stream, whose `RESULT` is free
(R114). -/
theorem commandsAreDeterministic : Obligations.CommandsAreDeterministic := by
  intro v s1 s2 t1 t2 hcur1 hcur2 hwf1 hwf2 hparams hport hlatch hunraced1 hunraced2
  have h : SameOperands s1 s2 := ⟨hcur1, hcur2, hwf1, hwf2, hparams, hport, hlatch, hunraced1, hunraced2⟩
  refine ⟨fun hin h1 h2 hmem => ?_, fun hin h1 h2 hmem1 hmem2 => ?_⟩
  · have hend := h.exec_enc_endAlike hin h1 h2 hmem
    exact ⟨hend.err, hend.result, fun hzero i hi =>
      hend.bytes hzero _ ((has_iff _ _).2 ⟨Nat.le_add_right .., Nat.add_lt_add_left hi _⟩)⟩
  · rcases h.exec_dec_endAlike hin h1 h2 hmem1 hmem2 with hend | ⟨herr1, herr2⟩
    · exact ⟨hend.err, fun _ => hend.result, hend.bytes⟩
    · exact ⟨herr1.trans herr2.symm, fun hne => absurd herr1 hne,
        fun hzero => absurd (herr1.symm.trans hzero) (by decide)⟩

end Sys2Proof.Machine

/-! How a command ends or stops (60_exceptions.md): a bus error or a malformed stream ends an encode or a decode with its
code and a draw over its write range (R111 to R114), a command changes no other channel (R121), and over ordinary memory
every command answers a next state (R110, R115). -/

namespace Sys2Proof.Machine

/-! ### Errors during execution (R111 to R114) -/

section Errors

variable {v : Variant} {s : State} {xs : List Nat} {p : Progress} {memErr : Bool} {e : BitVec 4}

/-- An unraced encode whose execution fails has ended with that error (R114). -/
theorem endsDirty_enc (hready : EncReady v s) (hunraced : s.curChan.raced = false)
    (hrun : encodeRun v s.curChan.latch s = s.failDirty e (encDirty v s.curChan.latch)) :
    EndsDirty (.enc v) s e (encDirty v s.curChan.latch) := by
  refine ⟨_, ?_, failDirty_spec s e _ hready.current⟩
  rw [exec_enc_of_ready v s hready, hunraced, if_neg Bool.false_ne_true, hrun]

/-- An unraced decode whose execution fails has ended with that error (R114). -/
theorem endsDirty_dec (hready : DecReady v s) (hunraced : s.curChan.raced = false)
    (hrun : decodeRun v s.curChan.latch s = s.failDirty e (decOut v s.curChan.latch)) :
    EndsDirty (.dec v) s e (decOut v s.curChan.latch) := by
  refine ⟨_, ?_, failDirty_spec s e _ hready.current⟩
  rw [exec_dec_of_ready v s hready, hunraced, if_neg Bool.false_ne_true, hrun]

/-- A bus error on the input or on the stream fails the execution of an encode (R111). -/
theorem encodeRun_of_busError
    (herr : portReads s.port (encIn v s.curChan.latch) = false ∨
      portWrites s.port { base := s.curChan.latch.dst.toNat, size := (encOutput v s).length } = false) :
    encodeRun v s.curChan.latch s = s.failDirty ErrCode.mem.code (encDirty v s.curChan.latch) := by
  rcases encodeRun_cases v s with ⟨hreads, hwrites, -⟩ | ⟨-, hrun⟩
  · simp [hreads, hwrites] at herr
  · exact hrun

/-! The executions of a decode that fail, by what the reader answers: the code is `ERR_MALFORMED` only where no read and
no write of a known element met a bus error (R111 to R113). -/

theorem decodeRun_of_busError (hread : decOutcome v s = .busError p) :
    decodeRun v s.curChan.latch s = s.failDirty ErrCode.mem.code (decOut v s.curChan.latch) := by
  rw [decOutcome] at hread
  rw [decodeRun, hread]

theorem decodeRun_of_done_busError (hread : decOutcome v s = .done xs p memErr)
    (herr : (!memErr && portWrites s.port (decOut v s.curChan.latch)) = false) :
    decodeRun v s.curChan.latch s = s.failDirty ErrCode.mem.code (decOut v s.curChan.latch) := by
  rw [decOutcome] at hread
  rw [decodeRun, hread]
  exact if_neg (Bool.eq_false_iff.1 herr)

theorem decodeRun_of_malformed (hread : decOutcome v s = .malformed p memErr)
    (hok : (!memErr && portWrites s.port { base := s.curChan.latch.dst.toNat, size := p.known v * v.size }) = true) :
    decodeRun v s.curChan.latch s = s.failDirty ErrCode.malformed.code (decOut v s.curChan.latch) := by
  rw [decOutcome] at hread
  rw [decodeRun, hread]
  exact if_pos hok

theorem decodeRun_of_malformed_busError (hread : decOutcome v s = .malformed p memErr)
    (herr : (!memErr && portWrites s.port { base := s.curChan.latch.dst.toNat, size := p.known v * v.size }) = false) :
    decodeRun v s.curChan.latch s = s.failDirty s.eitherCode (decOut v s.curChan.latch) := by
  rw [decOutcome] at hread
  rw [decodeRun, hread]
  exact if_neg (Bool.eq_false_iff.1 herr)

/-- The free choice of R113 is one of its two codes. -/
theorem eitherCode_eq_or (s : State) :
    s.eitherCode = ErrCode.mem.code ∨ s.eitherCode = ErrCode.malformed.code := ite_eq_or_eq ..

end Errors

/-- Settles O33: either bus error fails the execution. -/
theorem encodeBusErrorEndsWithErrMem : Obligations.EncodeBusErrorEndsWithErrMem :=
  fun _ _ hready hunraced herr => endsDirty_enc hready hunraced (encodeRun_of_busError herr)

/-- Settles O37: the reader met no bus error, and no known element is unwritable, so the code is not a free choice. -/
theorem decodeMalformedEndsWithErrMalformed : Obligations.DecodeMalformedEndsWithErrMalformed :=
  fun _ _ _ hready hunraced hread hwrites => endsDirty_dec hready hunraced (decodeRun_of_malformed hread hwrites)

/-- Settles O38: by where the bus error falls; beside a malformation the code is the free choice of R113. -/
theorem decodeBusErrorEndsWithErrMem : Obligations.DecodeBusErrorEndsWithErrMem := by
  intro v s xs p hready hunraced
  constructor
  · rintro (hread | hread | ⟨hread, hwrites⟩)
    · exact endsDirty_dec hready hunraced (decodeRun_of_busError hread)
    · exact endsDirty_dec hready hunraced (decodeRun_of_done_busError hread rfl)
    · exact endsDirty_dec hready hunraced (decodeRun_of_done_busError hread hwrites)
  · intro hboth
    have hrun : decodeRun v s.curChan.latch s = s.failDirty s.eitherCode (decOut v s.curChan.latch) := by
      rcases hboth with hread | ⟨hread, hwrites⟩
      · exact decodeRun_of_malformed_busError hread rfl
      · exact decodeRun_of_malformed_busError hread hwrites
    have hends := endsDirty_dec hready hunraced hrun
    rcases eitherCode_eq_or s with hcode | hcode <;> rw [hcode] at hends
    · exact .inl hends
    · exact .inr hends

/-! ### Every command (R110, R115, R121) -/

/-- Settles O40: by the frame of each family of commands. -/
theorem commandsLeaveOtherChannels : Obligations.CommandsLeaveOtherChannels := fun _ _ _ => exec_onlyChan

/-- A range that covers a device register needs a device on the memory port (R38). -/
theorem exists_device_of_onDevice {port : List Region} {r : Range} (h : onDevice port r = true) :
    ∃ g ∈ port, g.device = true := by
  obtain ⟨g, hg, hcovers⟩ := List.any_eq_true.1 h
  exact ⟨g, hg, (Bool.and_eq_true_iff.1 hcovers).1⟩

/-- All that an encode can answer: a next state, or the refusal of a device buffer (R38). -/
theorem runEnc_next_or_refused (v : Variant) (s : State) :
    (∃ t, runEnc v s = .next t) ∨ runEnc v s = .refused .deviceBuffer ∧ ∃ g ∈ s.port, g.device = true := by
  cases hpre : precheckEnc s.params v s.curChan.latch with
  | some e => exact .inl ⟨s.failClean e, by simp only [runEnc, hpre]⟩
  | none =>
    by_cases hdev : onDevice s.port (encIn v s.curChan.latch) = true ∨ onDevice s.port (encOut s.curChan.latch) = true
    · exact .inr ⟨runEnc_of_device hpre hdev, hdev.elim exists_device_of_onDevice exists_device_of_onDevice⟩
    · simp only [runEnc, hpre, Bool.or_eq_true, if_neg hdev]
      split <;> exact .inl ⟨_, rfl⟩

/-- All that a decode can answer: a next state, or the refusal of a device buffer (R38). -/
theorem runDec_next_or_refused (v : Variant) (s : State) :
    (∃ t, runDec v s = .next t) ∨ runDec v s = .refused .deviceBuffer ∧ ∃ g ∈ s.port, g.device = true := by
  cases hpre : precheckDec s.params v s.curChan.latch with
  | some e => exact .inl ⟨s.failClean e, by simp only [runDec, hpre]⟩
  | none =>
    by_cases hdev : onDevice s.port (decIn s.curChan.latch) = true ∨ onDevice s.port (decOut v s.curChan.latch) = true
    · exact .inr ⟨runDec_of_device hpre hdev, hdev.elim exists_device_of_onDevice exists_device_of_onDevice⟩
    · simp only [runDec, hpre, Bool.or_eq_true, if_neg hdev]
      split <;> exact .inl ⟨_, rfl⟩

/-- All that a command can answer: a next state, or, for an encode or a decode, the refusal of a device buffer. -/
theorem exec_next_or_refused (i : Instr) (s : State) :
    (∃ t, exec i s = .next t) ∨
      exec i s = .refused .deviceBuffer ∧ (∃ v, i = .enc v ∨ i = .dec v) ∧ ∃ g ∈ s.port, g.device = true := by
  rw [← command_kind i]
  cases i.kind with
  | nop n => exact .inl ⟨s, nopCompletes n s⟩
  | enc v =>
    rw [Kind.command, exec_enc]
    exact (runEnc_next_or_refused v s).imp_right fun ⟨hrefused, hdev⟩ => ⟨hrefused, ⟨v, .inl rfl⟩, hdev⟩
  | dec v =>
    rw [Kind.command, exec_dec]
    exact (runDec_next_or_refused v s).imp_right fun ⟨hrefused, hdev⟩ => ⟨hrefused, ⟨v, .inr rfl⟩, hdev⟩
  | bound wide w64 attrs => exact .inl ⟨_, exec_bound wide w64 attrs s⟩

/-- Settles O42: a next state is no stop, and a device buffer needs a device. -/
theorem commandsStopOnlyOnDeviceBuffers : Obligations.CommandsStopOnlyOnDeviceBuffers := by
  intro i s
  rcases exec_next_or_refused i s with ⟨t, hnext⟩ | ⟨hrefused, hfamily, hdev⟩
  · rw [hnext]
    exact ⟨nofun, nofun, fun _ => ⟨t, rfl⟩⟩
  · rw [hrefused]
    refine ⟨nofun, fun r hr => ?_, fun hnone => ?_⟩
    · cases hr
      exact ⟨rfl, hfamily, hdev⟩
    · obtain ⟨g, hg, hdevice⟩ := hdev
      exact absurd ((hnone g hg).symm.trans hdevice) Bool.false_ne_true

end Sys2Proof.Machine

/-! Reset and forward progress (70_reset_and_hazards.md): the state after a reset is legal, a reset changes no byte but
those of the commands it abandons (R124 to R126), and with nothing on the agenda a busy channel's command completes, so
that fewer channels are busy (R133). -/

namespace Sys2Proof.Machine

/-! ### Reset (R124 to R126) -/

/-- Settles O9: by the general form; the reference configuration is legal (R8). -/
theorem resetMeetsInvariant : Obligations.ResetMeetsInvariant :=
  ⟨fun _ => .resetWith, .resetWith (by decide)⟩

/-- An address outside a range is outside the part of it that exists (R33). -/
theorem within_has_of_outside {r : Range} {a : Nat} (addrWidth : Nat) (h : r.has a = false) :
    (r.within addrWidth).has a = false := by
  have hsize : (r.within addrWidth).size ≤ r.size := Nat.min_le_left ..
  rw [← Bool.not_eq_true, has_iff] at h ⊢
  exact fun ⟨hlo, hhi⟩ => h ⟨hlo, hhi.trans_le (Nat.add_le_add_left hsize _)⟩

/-- Abandoning a channel's command leaves every byte outside its range alone (R125), in any memory. -/
theorem abandon_get_of_outside (s : State) {c : Chan} {a : Nat}
    (h : c.eng = .busy → (abandonedRange c.latch).has a = false) : (s.abandon c).mem.get a = s.mem.get a := by
  unfold State.abandon
  split
  case isTrue hbusy =>
    have hout := within_has_of_outside s.params.addrWidth (h ((busy_iff c).1 hbusy))
    exact write_sameOutside s.mem _ _ (freeBytes_length s _).le a hout
  case isFalse => rfl

/-- A reset leaves every byte alone that is in no abandoned command's range (R125, R126). -/
theorem resetNow_get_of_outside (s : State) {a : Nat}
    (h : ∀ c ∈ s.chans, c.eng = .busy → (abandonedRange c.latch).has a = false) :
    s.resetNow.mem.get a = s.mem.get a :=
  List.foldlRecOn s.chans State.abandon (motive := fun t => t.mem.get a = s.mem.get a) rfl
    fun t ht c hc => (abandon_get_of_outside t (h c hc)).trans ht

/-- Settles O28: the registers are those after reset, and memory is left channel by channel. -/
theorem resetChangesOnlyAbandonedRanges : Obligations.ResetChangesOnlyAbandonedRanges := fun s rest hin =>
  ⟨_, step_cons s .reset rest hin, rfl, rfl, rfl, rfl, fun _ => resetNow_get_of_outside { s with inputs := rest }⟩

/-! ### Every command that answers a next state has completed (R29, R115) -/

/-- However an encode ends, it completes (R105, R114). -/
theorem runEnc_completes {v : Variant} {s t : State} (hcur : s.cur < s.chans.length) (h : runEnc v s = .next t) :
    ∃ e, CompletedWith s t e := by
  have hdirty (e : BitVec 4) : CompletedWith s (s.failDirty e (encDirty v s.curChan.latch)) e :=
    (failDirty_spec s e _ hcur).1
  rcases runEnc_cases v s t h with ⟨e, -, rfl⟩ | ⟨-, -, -, ⟨-, rfl⟩ | ⟨-, rfl⟩⟩
  · exact ⟨e.code, (failClean_spec s e hcur).1⟩
  · exact ⟨_, hdirty _⟩
  · rcases encodeRun_cases v s with ⟨-, -, ht⟩ | ⟨-, ht⟩ <;> rw [ht]
    · exact ⟨0, (complete_write_spec s _ _ _ hcur).1⟩
    · exact ⟨_, hdirty _⟩

/-- However a command other than NOP ends, it completes (R29 step 3); NOP alone leaves the channel as it is (R104). -/
theorem exec_completes {i : Instr} {s t : State} (hcur : s.cur < s.chans.length) (hnop : ∀ n, i ≠ .nop n)
    (h : exec i s = .next t) : ∃ e, CompletedWith s t e := by
  rw [← command_kind i] at h hnop
  generalize i.kind = kind at h hnop
  cases kind with
  | nop n => exact absurd rfl (hnop n)
  | enc v =>
    rw [Kind.command, exec_enc] at h
    exact runEnc_completes hcur h
  | dec v =>
    obtain ⟨-, e, -, hcompleted⟩ := decodeNeverWritesOutsideItsOutput v s t hcur h
    exact ⟨e, hcompleted⟩
  | bound wide w64 attrs =>
    rw [Kind.command, exec_bound] at h
    cases h
    exact ⟨0, (complete_spec s _ 0 hcur).1⟩

/-! ### A busy channel's command completes (R133) -/

/-- The word that a busy channel of a legal state runs is no NOP (R22). -/
theorem State.Inv.latched_ne_nop {s : State} (h : s.Inv) {ch : Nat} (hbusy : (s.chan ch).eng = .busy) (n : Nat) :
    decodeCmd (s.chan ch).latch.cmd ≠ .ok (.nop n) := by
  obtain ⟨hword, hop⟩ := (h.chanAt ch).busyWord hbusy
  rw [hword]
  exact decodeCmd_ne_nop _ n hop

/-- Over ordinary memory a busy engine's run completes its command, with `ERR_ILLEGAL` where the word is illegal. -/
theorem runEngine_completes {s : State} {ch : Nat} (hinv : s.Inv) (hbusy : (s.chan ch).eng = .busy)
    (hport : ∀ g ∈ s.port, g.device = false) :
    ∃ t e, runEngine ch s = .next t ∧ CompletedWith (s.select ch) t e := by
  have hcur : (s.select ch).cur < (s.select ch).chans.length := lt_of_busy s ch ((busy_iff _).2 hbusy)
  cases hdecode : decodeCmd (s.chan ch).latch.cmd with
  | rejected d => exact ⟨_, _, runEngine_of_rejected hbusy hdecode, (failClean_spec _ .illegal hcur).1⟩
  | ok i =>
    obtain ⟨-, -, hanswers⟩ := commandsStopOnlyOnDeviceBuffers i (s.select ch)
    obtain ⟨t, hexec⟩ := hanswers hport
    have hnop : ∀ n, i ≠ .nop n := fun n hi => hinv.latched_ne_nop hbusy n (hi ▸ hdecode)
    obtain ⟨e, hcompleted⟩ := exec_completes hcur hnop hexec
    exact ⟨t, e, (runEngine_of_busy hbusy hdecode).trans hexec, hcompleted⟩

/-- What changes no other channel has replaced at most this one. -/
theorem OnlyChan.chans_eq_set {s t : State} {ch : Nat} (h : OnlyChan s t ch) :
    t.chans = s.chans.set ch (t.chan ch) := by
  refine List.ext_getElem (by simp [h.count]) fun k hk _ => ?_
  have hchan : t.chan k = t.chans[k] := List.getD_eq_getElem _ _ hk
  by_cases hkch : ch = k
  · subst hkch
    rw [List.getElem_set_self, hchan]
  · rw [List.getElem_set_ne hkch, ← hchan, h.others k (Ne.symm hkch)]
    exact List.getD_eq_getElem _ _ _

/-- When a busy channel becomes idle and no other channel changes, fewer channels are busy. -/
theorem OnlyChan.countP_busy_lt {s t : State} {ch : Nat} (h : OnlyChan s t ch) (hbusy : (s.chan ch).eng = .busy)
    (hidle : (t.chan ch).eng = .idle) : t.chans.countP (·.busy) < s.chans.countP (·.busy) := by
  have hlt := lt_of_busy s ch ((busy_iff _).2 hbusy)
  have hwas : s.chans[ch].busy = true := by
    rw [busy_iff, ← hbusy, State.chan, List.getD_eq_getElem _ _ hlt]
  have hpos : 0 < s.chans.countP (·.busy) := List.countP_pos_iff.2 ⟨_, List.getElem_mem hlt, hwas⟩
  rw [h.chans_eq_set, List.countP_set hlt, if_pos hwas, if_neg (not_busy_of_idle hidle)]
  omega

/-- Where some channel is busy, the one that an empty agenda lets run is a busy one (log 4). -/
theorem exists_firstBusy {s : State} (h : ∃ c ∈ s.chans, c.eng = .busy) :
    ∃ ch, s.firstBusy = some ch ∧ (s.chan ch).eng = .busy := by
  obtain ⟨c, hc, hbusy⟩ := h
  cases hfirst : s.firstBusy with
  | none => exact absurd ((busy_iff c).2 hbusy) (Bool.eq_false_iff.1 (List.findIdx?_eq_none_iff.1 hfirst c hc))
  | some ch =>
    obtain ⟨hlt, hfound, -⟩ := List.findIdx?_eq_some_iff_getElem.1 hfirst
    refine ⟨ch, rfl, ?_⟩
    rwa [State.chan, List.getD_eq_getElem _ _ hlt, ← busy_iff]

/-- With nothing on the agenda the first busy channel's engine runs (R133). -/
theorem step_of_firstBusy {s : State} {ch : Nat} (hin : s.inputs = []) (hfirst : s.firstBusy = some ch) :
    step s = runEngine ch s := by
  simp only [step, hin, idleStep, hfirst]

/-- Settles O10: the first busy channel's run completes its command and touches no other channel. -/
theorem busyChannelsCompleteInTurn : Obligations.BusyChannelsCompleteInTurn := by
  intro s hinv hin hsome hport
  obtain ⟨ch, hfirst, hbusy⟩ := exists_firstBusy hsome
  obtain ⟨t, e, hrun, hcompleted⟩ := runEngine_completes hinv hbusy hport
  have hcur : t.cur = ch := hcompleted.frame.cur
  have hidle : (t.chan ch).eng = .idle := hcur ▸ hcompleted.idle
  have hfewer : t.chans.countP (·.busy) < (s.select ch).chans.countP (·.busy) :=
    hcompleted.frame.countP_busy_lt hbusy hidle
  exact ⟨t, (step_of_firstBusy hin hfirst).trans hrun, hfewer⟩

end Sys2Proof.Machine
